-- ==== Sys2Proof/Word.lean ====
section
/-! DEFINITION. The two word types of the block: 32-bit registers and packet words (rule R6), 8-bit bytes,
palette indices and colour channels (rules R6, R60). -/

namespace Sys2Proof

/-- A register, a packet word or a packed colour: 32 bits (rules R6, R22, R65). -/
abbrev Word := BitVec 32

/-- A byte of pixel memory, a palette index or one colour channel: 8 bits (rules R6, R60). -/
abbrev Byte := BitVec 8

end Sys2Proof
end

