-- ==== Sys2Proof/Config.lean ====
section
/-! DEFINITION. The implementation parameters of rule R6 and the constants no parameter changes.
The model TAKES the parameters, as rule R6 says: they stand in `State` behind the read-only registers
`PMEM_SIZE_R`, `FIFO_DEPTH_R` and `MIN_DIM_R` (rule R22), so a claim about every state is a claim about every
legal value of them (note 2 of the assumption log). -/

namespace Sys2Proof

/-- The parameters of rule R6 that software can read back (`PMEM_INIT` is the fourth: it is the memory a
power-on starts from, an argument of `Machine.State.powerOn`). -/
structure Params where
  /-- bytes of pixel memory -/
  pmemSize  : Nat
  /-- capacity of the command FIFO, in words -/
  fifoDepth : Nat
  /-- the smallest legal internal width or height; OPEN in the spec -/
  minDim    : Nat
  deriving DecidableEq, Repr

/-- The constraint column of rule R6. -/
structure Params.Legal (p : Params) : Prop where
  pmemSize_mul4 : p.pmemSize % 4 = 0
  pmemSize_low  : 4096 ≤ p.pmemSize
  pmemSize_high : p.pmemSize ≤ 2 ^ 31
  fifoDepth_low  : 12 ≤ p.fifoDepth
  fifoDepth_high : p.fifoDepth ≤ 255
  minDim_low  : 1 ≤ p.minDim
  minDim_high : p.minDim ≤ 100

/-- The reference configuration of rule R6: 4 MiB of pixel memory and a FIFO of 64 words.
DESIGN CHOICE (note 2; unsafe for a claim that starts at `State.reset` and runs INIT): `MIN_DIM` is OPEN in the
spec; 4 is the largest value under which every vector of 95_test_vectors.md runs. -/
def Config.reference : Params := { pmemSize := 0x400000, fifoDepth := 64, minDim := 4 }

/-- The constant of register `ID` (rules R1, R22). -/
def Config.idWord : Word := 0x4C554D01#32

/-- Entries of the palette RAM (rule R40). -/
def Config.paletteEntries : Nat := 256

end Sys2Proof
end

