-- ==== Sys2Proof/Syntax.lean ====
section
/-! DEFINITION. The command set: one constructor of `Instr` per row of spec/opcode_table.json (rule R86), each with its
operands as rule R84 reads them, and the errors a command can raise (rule R200).
Coordinates and rectangle sizes are signed integers, addresses, counts and dimensions are natural numbers: the spec
computes with them in mathematical integers (rules R8, R84). Colours, index values and the fixed-point words
of LIGHT are words: they are taken apart bit by bit (rules R65, R84, R85). -/

namespace Sys2Proof

/-- The command errors of rule R200, in the order of their codes. -/
inductive CommandError where
  | badFactor | dimTooSmall | dimNotDiv4 | noMem
  | illegalOpcode | reservedBits | badMode
  | notInit | bounds | align | overlap | badOperand
  deriving DecidableEq, Repr

/-- A command of the block (rules R80, R86). -/
inductive Instr where
  -- control (45_control.md)
  | nop
  | init (factor width height idxBase fbBase outBase : Nat)
  | signal (value : Word)
  | signalIrq (value : Word)
  -- palette (40_palette.md)
  | palAdd (color : Word)
  | palFind (color : Word)
  -- rasteriser (41_raster.md)
  | clear (value : Word)
  | clearI (value : Word)
  | pixel (x y : Int) (value : Word)
  | pixelB (x y : Int) (value : Word)
  | pixelI (x y : Int) (value : Word)
  | line (x0 y0 x1 y1 : Int) (value : Word)
  | lineB (x0 y0 x1 y1 : Int) (value : Word)
  | lineI (x0 y0 x1 y1 : Int) (value : Word)
  | linep (x0 y0 x1 y1 : Int) (value : Word)
  | linepB (x0 y0 x1 y1 : Int) (value : Word)
  | linepI (x0 y0 x1 y1 : Int) (value : Word)
  | rect (x y w h : Int) (value : Word)
  | rectB (x y w h : Int) (value : Word)
  | rectI (x y w h : Int) (value : Word)
  | fill (x y w h : Int) (value : Word)
  | fillB (x y w h : Int) (value : Word)
  | fillI (x y w h : Int) (value : Word)
  -- converter and upscaler (42_convert.md, 43_upscale.md)
  | convert (dst src count : Nat)
  | upscale (dst src srcW srcH factor : Nat)
  -- sprites and light (44_sprite_light.md)
  | blit (x y : Int) (spriteBase spriteW spriteH : Nat)
  | blitB (x y : Int) (spriteBase spriteW spriteH : Nat)
  | light (x y : Int) (spriteBase spriteW spriteH : Nat) (lightX lightY : Int)
      (lightColor : Word) (range : Nat) (intensityEnable ambient : Word)
  | lightB (x y : Int) (spriteBase spriteW spriteH : Nat) (lightX lightY : Int)
      (lightColor : Word) (range : Nat) (intensityEnable ambient : Word)
  deriving DecidableEq, Repr

/-- What a header word, with the operand words behind it, decodes to (rule R92): a command, or the error the header
raises. -/
inductive Decoded where
  | instr (i : Instr)
  | error (e : CommandError)
  deriving DecidableEq, Repr

end Sys2Proof
end

