-- ==== Sys2Proof/WellFormed.lean ====
section
/-! DEFINITION. Which instruction terms an encoding exists for: every signed operand is a 32-bit two's complement number,
every unsigned operand a 32-bit unsigned one (rule R84). Words need no check. -/

namespace Sys2Proof

/-- A coordinate or rectangle size that `sext_32` can produce (rules R8, R84). -/
def signedOk (v : Int) : Bool := decide (-2 ^ 31 ≤ v) && decide (v < 2 ^ 31)

/-- An address, count or dimension that `zext_32` can produce (rules R8, R84). -/
def unsignedOk (n : Nat) : Bool := decide (n < 2 ^ 32)

/-- The operand ranges of rule R84, per command. -/
def Instr.wellFormed : Instr → Bool
  | .nop => true
  | .init f w h bi bf bo =>
      unsignedOk f && unsignedOk w && unsignedOk h && unsignedOk bi && unsignedOk bf && unsignedOk bo
  | .signal _ | .signalIrq _ | .palAdd _ | .palFind _ | .clear _ | .clearI _ => true
  | .pixel x y _ | .pixelB x y _ | .pixelI x y _ => signedOk x && signedOk y
  | .line a b c d _ | .lineB a b c d _ | .lineI a b c d _
  | .linep a b c d _ | .linepB a b c d _ | .linepI a b c d _
  | .rect a b c d _ | .rectB a b c d _ | .rectI a b c d _
  | .fill a b c d _ | .fillB a b c d _ | .fillI a b c d _ =>
      signedOk a && signedOk b && signedOk c && signedOk d
  | .convert d s n => unsignedOk d && unsignedOk s && unsignedOk n
  | .upscale d s w h f => unsignedOk d && unsignedOk s && unsignedOk w && unsignedOk h && unsignedOk f
  | .blit x y b w h | .blitB x y b w h =>
      signedOk x && signedOk y && unsignedOk b && unsignedOk w && unsignedOk h
  | .light x y b w h lx ly _ r _ _ | .lightB x y b w h lx ly _ r _ _ =>
      signedOk x && signedOk y && unsignedOk b && unsignedOk w && unsignedOk h
        && signedOk lx && signedOk ly && unsignedOk r

end Sys2Proof
end

