-- ==== Sys2Proof/Decode.lean ====
section
/-! DEFINITION. The packet format of 30_encoding.md: the header's fields, the packet length, the decoder (total on any
words, rejecting by the error's name) and the encoder, both written from the tables of rules R80, R82 and R86. -/

namespace Sys2Proof

/-! ### Operand words (rule R84) -/

/-- A coordinate or rectangle size, `sext_32(op[k])`. -/
def signedOperand (w : Word) : Int := w.toInt

/-- An address, count or dimension, `zext_32(op[k])`. -/
def unsignedOperand (w : Word) : Nat := w.toNat

/-- The 32-bit two's complement word of a coordinate or size (rule R93). -/
def signedWord (v : Int) : Word := BitVec.ofInt 32 v

/-- The 32-bit unsigned word of an address or count (rule R93). -/
def unsignedWord (n : Nat) : Word := BitVec.ofNat 32 n

/-! ### Header (rules R80, R82, R91) -/

/-- `OPCODE`, header bits [7:0]. -/
def headerOpcode (h : Word) : BitVec 8 := h.extractLsb' 0 8

/-- `MODE`, header bits [9:8]. -/
def headerMode (h : Word) : BitVec 2 := h.extractLsb' 8 2

/-- `RSV`, header bits [31:10]. -/
def headerReserved (h : Word) : BitVec 22 := h.extractLsb' 10 22

/-- The table of rule R80: the length L of a packet by its opcode; none for an opcode that is not in the map. -/
def opcodeLength (opcode : BitVec 8) : Option Nat :=
  match opcode.toNat with
  | 0x00 => some 1    -- NOP
  | 0x01 => some 7    -- INIT
  | 0x02 => some 2    -- SIGNAL
  | 0x03 => some 2    -- PAL_ADD
  | 0x04 => some 2    -- PAL_FIND
  | 0x10 => some 2    -- CLEAR
  | 0x11 => some 4    -- PIXEL
  | 0x12 => some 6    -- LINE
  | 0x13 => some 6    -- LINEP
  | 0x14 => some 6    -- RECT
  | 0x15 => some 6    -- FILL
  | 0x20 => some 4    -- CONVERT
  | 0x21 => some 6    -- UPSCALE
  | 0x30 => some 6    -- BLIT
  | 0x31 => some 12   -- LIGHT
  | _    => none

/-- Words the packet with header `h` has. It depends on the opcode alone; an illegal opcode has length 1 (rules R80,
R87, R91). -/
def packetLength (h : Word) : Nat := (opcodeLength (headerOpcode h)).getD 1

/-! ### Decoder (rules R84, R86 to R89, R92) -/

/-- `op[k]` of rule R9, k ≥ 1, of the operand words `ops`. -/
def operandWord (ops : List Word) (k : Nat) : Word := ops.getD (k - 1) 0#32

/-- `op[k]` read as a coordinate or size. -/
def signedAt (ops : List Word) (k : Nat) : Int := signedOperand (operandWord ops k)

/-- `op[k]` read as an address, count or dimension. -/
def unsignedAt (ops : List Word) (k : Nat) : Nat := unsignedOperand (operandWord ops k)

/-- The opcode map of rule R86 on a legal opcode and clear reserved bits: a (opcode, mode) pair with no mnemonic raises
`BAD_MODE` (rule R89). -/
def decodeMode (opcode mode : Nat) (ops : List Word) : Decoded :=
  match opcode, mode with
  | 0x00, 0 => .instr .nop
  | 0x01, 0 => .instr (.init (unsignedAt ops 1) (unsignedAt ops 2) (unsignedAt ops 3)
      (unsignedAt ops 4) (unsignedAt ops 5) (unsignedAt ops 6))
  | 0x02, 0 => .instr (.signal (operandWord ops 1))
  | 0x02, 1 => .instr (.signalIrq (operandWord ops 1))
  | 0x03, 0 => .instr (.palAdd (operandWord ops 1))
  | 0x04, 0 => .instr (.palFind (operandWord ops 1))
  | 0x10, 0 => .instr (.clear (operandWord ops 1))
  | 0x10, 2 => .instr (.clearI (operandWord ops 1))
  | 0x11, 0 => .instr (.pixel (signedAt ops 1) (signedAt ops 2) (operandWord ops 3))
  | 0x11, 1 => .instr (.pixelB (signedAt ops 1) (signedAt ops 2) (operandWord ops 3))
  | 0x11, 2 => .instr (.pixelI (signedAt ops 1) (signedAt ops 2) (operandWord ops 3))
  | 0x12, 0 => .instr (.line (signedAt ops 1) (signedAt ops 2) (signedAt ops 3) (signedAt ops 4)
      (operandWord ops 5))
  | 0x12, 1 => .instr (.lineB (signedAt ops 1) (signedAt ops 2) (signedAt ops 3) (signedAt ops 4)
      (operandWord ops 5))
  | 0x12, 2 => .instr (.lineI (signedAt ops 1) (signedAt ops 2) (signedAt ops 3) (signedAt ops 4)
      (operandWord ops 5))
  | 0x13, 0 => .instr (.linep (signedAt ops 1) (signedAt ops 2) (signedAt ops 3) (signedAt ops 4)
      (operandWord ops 5))
  | 0x13, 1 => .instr (.linepB (signedAt ops 1) (signedAt ops 2) (signedAt ops 3) (signedAt ops 4)
      (operandWord ops 5))
  | 0x13, 2 => .instr (.linepI (signedAt ops 1) (signedAt ops 2) (signedAt ops 3) (signedAt ops 4)
      (operandWord ops 5))
  | 0x14, 0 => .instr (.rect (signedAt ops 1) (signedAt ops 2) (signedAt ops 3) (signedAt ops 4)
      (operandWord ops 5))
  | 0x14, 1 => .instr (.rectB (signedAt ops 1) (signedAt ops 2) (signedAt ops 3) (signedAt ops 4)
      (operandWord ops 5))
  | 0x14, 2 => .instr (.rectI (signedAt ops 1) (signedAt ops 2) (signedAt ops 3) (signedAt ops 4)
      (operandWord ops 5))
  | 0x15, 0 => .instr (.fill (signedAt ops 1) (signedAt ops 2) (signedAt ops 3) (signedAt ops 4)
      (operandWord ops 5))
  | 0x15, 1 => .instr (.fillB (signedAt ops 1) (signedAt ops 2) (signedAt ops 3) (signedAt ops 4)
      (operandWord ops 5))
  | 0x15, 2 => .instr (.fillI (signedAt ops 1) (signedAt ops 2) (signedAt ops 3) (signedAt ops 4)
      (operandWord ops 5))
  | 0x20, 0 => .instr (.convert (unsignedAt ops 1) (unsignedAt ops 2) (unsignedAt ops 3))
  | 0x21, 0 => .instr (.upscale (unsignedAt ops 1) (unsignedAt ops 2) (unsignedAt ops 3)
      (unsignedAt ops 4) (unsignedAt ops 5))
  | 0x30, 0 => .instr (.blit (signedAt ops 1) (signedAt ops 2) (unsignedAt ops 3)
      (unsignedAt ops 4) (unsignedAt ops 5))
  | 0x30, 1 => .instr (.blitB (signedAt ops 1) (signedAt ops 2) (unsignedAt ops 3)
      (unsignedAt ops 4) (unsignedAt ops 5))
  | 0x31, 0 => .instr (.light (signedAt ops 1) (signedAt ops 2) (unsignedAt ops 3)
      (unsignedAt ops 4) (unsignedAt ops 5) (signedAt ops 6) (signedAt ops 7) (operandWord ops 8)
      (unsignedAt ops 9) (operandWord ops 10) (operandWord ops 11))
  | 0x31, 1 => .instr (.lightB (signedAt ops 1) (signedAt ops 2) (unsignedAt ops 3)
      (unsignedAt ops 4) (unsignedAt ops 5) (signedAt ops 6) (signedAt ops 7) (operandWord ops 8)
      (unsignedAt ops 9) (operandWord ops 10) (operandWord ops 11))
  | _, _ => .error .badMode

/-- `decode(h)` of rule R92, with the operand words that follow the header: total on any words. The engine calls it with
all `packetLength h - 1` operand words (rule R81). -/
def decodePacket (h : Word) (ops : List Word) : Decoded :=
  if (opcodeLength (headerOpcode h)).isNone then .error .illegalOpcode
  else if headerReserved h ≠ 0#22 then .error .reservedBits
  else decodeMode (headerOpcode h).toNat (headerMode h).toNat ops

/-! ### Encoder (rules R80, R82, R86, R93) -/

/-- The header value `OPCODE + 256·MODE` of rule R82. -/
def headerValue (opcode mode : Nat) : Word := BitVec.ofNat 32 (opcode + 256 * mode)

/-- The header column of rule R86. -/
def headerWord : Instr → Word
  | .nop => headerValue 0x00 0
  | .init .. => headerValue 0x01 0
  | .signal .. => headerValue 0x02 0
  | .signalIrq .. => headerValue 0x02 1
  | .palAdd .. => headerValue 0x03 0
  | .palFind .. => headerValue 0x04 0
  | .clear .. => headerValue 0x10 0
  | .clearI .. => headerValue 0x10 2
  | .pixel .. => headerValue 0x11 0
  | .pixelB .. => headerValue 0x11 1
  | .pixelI .. => headerValue 0x11 2
  | .line .. => headerValue 0x12 0
  | .lineB .. => headerValue 0x12 1
  | .lineI .. => headerValue 0x12 2
  | .linep .. => headerValue 0x13 0
  | .linepB .. => headerValue 0x13 1
  | .linepI .. => headerValue 0x13 2
  | .rect .. => headerValue 0x14 0
  | .rectB .. => headerValue 0x14 1
  | .rectI .. => headerValue 0x14 2
  | .fill .. => headerValue 0x15 0
  | .fillB .. => headerValue 0x15 1
  | .fillI .. => headerValue 0x15 2
  | .convert .. => headerValue 0x20 0
  | .upscale .. => headerValue 0x21 0
  | .blit .. => headerValue 0x30 0
  | .blitB .. => headerValue 0x30 1
  | .light .. => headerValue 0x31 0
  | .lightB .. => headerValue 0x31 1

/-- The operands column of rule R80, each as its word. -/
def operandWords : Instr → List Word
  | .nop => []
  | .init f w h bi bf bo =>
      [unsignedWord f, unsignedWord w, unsignedWord h, unsignedWord bi, unsignedWord bf, unsignedWord bo]
  | .signal v | .signalIrq v | .palAdd v | .palFind v | .clear v | .clearI v => [v]
  | .pixel x y v | .pixelB x y v | .pixelI x y v => [signedWord x, signedWord y, v]
  | .line a b c d v | .lineB a b c d v | .lineI a b c d v
  | .linep a b c d v | .linepB a b c d v | .linepI a b c d v
  | .rect a b c d v | .rectB a b c d v | .rectI a b c d v
  | .fill a b c d v | .fillB a b c d v | .fillI a b c d v =>
      [signedWord a, signedWord b, signedWord c, signedWord d, v]
  | .convert d s n => [unsignedWord d, unsignedWord s, unsignedWord n]
  | .upscale d s w h f => [unsignedWord d, unsignedWord s, unsignedWord w, unsignedWord h, unsignedWord f]
  | .blit x y b w h | .blitB x y b w h =>
      [signedWord x, signedWord y, unsignedWord b, unsignedWord w, unsignedWord h]
  | .light x y b w h lx ly c r ie am | .lightB x y b w h lx ly c r ie am =>
      [signedWord x, signedWord y, unsignedWord b, unsignedWord w, unsignedWord h,
       signedWord lx, signedWord ly, c, unsignedWord r, ie, am]

/-- The packet of a command, as the host writes it to `CMD_FIFO`: header, then operands (rule R80). -/
def encode (i : Instr) : List Word := headerWord i :: operandWords i

/-! ### Words numbered as the opcode table numbers them -/

/-- The first `n` 32-bit words of the number `w`, least significant word first. -/
def wordsOfNat : Nat → Nat → List Word
  | 0, _ => []
  | n + 1, w => BitVec.ofNat 32 w :: wordsOfNat n (w / 2 ^ 32)

/-- The longest packet, LIGHT, has 12 words (rule R6). -/
def maxPacketWords : Nat := 12

/-- The packet an opcode-table word stands for: `nbits` bits of `w`, every bit above them 0, cut to the length the header
gives. -/
def tablePacket (nbits w : Nat) : List Word :=
  let words := wordsOfNat maxPacketWords (w % 2 ^ nbits)
  words.take (packetLength (words.headD 0#32))

/-- The instruction the decoder reads from an opcode-table word; none where it refuses. -/
def decodeTableWord (nbits w : Nat) : Option Instr :=
  let packet := tablePacket nbits w
  match decodePacket (packet.headD 0#32) packet.tail with
  | .instr i => some i
  | .error _ => none

end Sys2Proof
end

