-- ==== Sys2Proof/Machine/State.lean ====
section
/-! DEFINITION. The state of the block (rule R20) and of its ports, as plain data, the reasons a step can stop, and the
state after reset (rule R230). -/

namespace Sys2Proof.Machine

/-- Why the machine stops with a fault. -/
inductive Fault where
  /-- Raised by a raster, BLIT or LIGHT command that passed every check of its rule while the configured target buffer is
  not inside PMEM: the engine would access a byte that does not exist (rules R60, R62). INIT checks the buffers, so no
  run reaches such a state. Safe: the machine stops where the spec gives no effect (note 7). -/
  | bufferOutsidePmem
  deriving DecidableEq, Repr

/-- Why the model refuses an instruction. -/
inductive Refusal where
  /-- Raised by `exec` for an instruction that has no meaning yet, by its mnemonic. Safe: no next state is claimed. No arm
  of `exec` uses it. -/
  | notModelled (mnemonic : String)
  deriving DecidableEq, Repr

/-- Pixel memory: the bytes that differ from what an unlisted address reads as, addresses strictly rising
(`Memory.wf` in Machine/Ops.lean). -/
abbrev Memory := List Host.Cell

/-- The width of a register-port access. Only `word` is a 32-bit access (rule R33). -/
inductive AccessSize where
  | byte | half | word
  deriving DecidableEq, Repr

/-- One access of the host: through the register port (rules R22, R33), or through the memory port, which accepts 1-byte
and 4-byte accesses (rule R69). -/
inductive HostAccess where
  | regRead (offset : Word) (size : AccessSize)
  | regWrite (offset : Word) (size : AccessSize) (value : Word)
  | memReadByte (addr : Word)
  | memReadWord (addr : Word)
  | memWriteByte (addr : Word) (value : Byte)
  | memWriteWord (addr : Word) (value : Word)
  deriving DecidableEq, Repr

/-- What the outside does next. The two agents of rule R11 interleave in any order: `engineTurn` is the place in the
host's script where the engine is given one step, so that every interleaving of finitely many host accesses with engine
steps is a script (note 3). -/
inductive PortEvent where
  | access (a : HostAccess)
  | resetInput
  | engineTurn
  deriving DecidableEq, Repr

/-- The answer a port gives the host: read data and whether it is a bus error (rules R29, R33, R69).
Data 0 for a write, and the byte of a 1-byte read in bits [7:0] of `data`, are DESIGN CHOICE (note 8). -/
structure PortResponse where
  data     : Word
  busError : Bool
  deriving DecidableEq, Repr

/-- The state of the block (rule R20) and, in the last two fields, of its ports. -/
structure State where
  /-- `PMEM_SIZE_R`, `FIFO_DEPTH_R`, `MIN_DIM_R`: the parameters (rules R6, R22). -/
  params : Params
  /-- the command FIFO, oldest word first (rule R45) -/
  fifo : List Word
  /-- `HALTED` (rule R47) -/
  halted : Bool
  /-- `CFG_VALID` (rule R50) -/
  cfgValid : Bool
  /-- `ERR_CODE` bits [7:0]; bits [31:8] read 0 (rule R25) -/
  errCode : BitVec 8
  /-- `ERR_HEADER` (rule R26) -/
  errHeader : Word
  /-- `IRQ_STATUS` bits [2:0], OVF, ERR, SIG; bits [31:3] read 0 (rule R27) -/
  irqStatus : BitVec 3
  /-- `IRQ_ENABLE` bits [2:0]; bits [31:3] read 0 (rule R28) -/
  irqEnable : BitVec 3
  /-- `RESULT` (rule R30) -/
  result : Word
  /-- `SIGNAL` (rule R31) -/
  signal : Word
  /-- `CMD_COUNT` (rule R32) -/
  cmdCount : Word
  /-- `PAL[0 .. PAL_SIZE-1]` in insertion order. `PAL_SIZE` is its length, and an entry at or beyond it reads 0
  (rule R40; note 9). -/
  pal : List Word
  /-- `CFG_FACTOR` (rule R50) -/
  cfgFactor : Word
  /-- `CFG_WIDTH` (rule R50) -/
  cfgWidth : Word
  /-- `CFG_HEIGHT` (rule R50) -/
  cfgHeight : Word
  /-- `CFG_IDX_BASE` (rule R50) -/
  cfgIdxBase : Word
  /-- `CFG_FB_BASE` (rule R50) -/
  cfgFbBase : Word
  /-- `CFG_OUT_BASE` (rule R50) -/
  cfgOutBase : Word
  /-- `PMEM` (rule R60) -/
  mem : Memory
  /-- what the outside will do, first event first: the model's own field (rules R11, R70; note 3) -/
  port : List PortEvent
  /-- the answer to the host's latest access: the model's own field (note 8) -/
  portResponse : Option PortResponse
  deriving DecidableEq, Repr

/-- The block after power-on with the parameters `p` and pixel memory `pmemInit` (rules R6, R77, R230), nothing yet asked
of its ports. -/
def State.powerOn (p : Params) (pmemInit : Memory) : State where
  params := p
  fifo := []
  halted := false
  cfgValid := false
  errCode := 0
  errHeader := 0
  irqStatus := 0
  irqEnable := 0
  result := 0
  signal := 0
  cmdCount := 0
  pal := []
  cfgFactor := 0
  cfgWidth := 0
  cfgHeight := 0
  cfgIdxBase := 0
  cfgFbBase := 0
  cfgOutBase := 0
  mem := pmemInit
  port := []
  portResponse := none

/-- The machine right after reset, of the reference configuration (rule R6) and with nothing listed in pixel memory.
DESIGN CHOICE of the parameters and of `PMEM_INIT` (notes 1 and 2). -/
def State.reset : State := State.powerOn Config.reference []

end Sys2Proof.Machine
end

