-- ==== Sys2Proof/Machine/Ops.lean ====
section
/-! DEFINITION. The operations the commands and the ports share: pixel memory, regions, the palette RAM, the two ways a
command ends (completed and counted, or in an error), and the ways the host clears an error, the FIFO or the block. -/

namespace Sys2Proof.Machine

/-- What `exec` and `step` answer. -/
abbrev Result := Host.Outcome State Fault Refusal

/-! ### Pixel memory (rules R60, R62, R63) -/

/-- What an unlisted address reads as.
DESIGN CHOICE (note 1; unsafe for a claim that starts at `State.reset`): rule R77 leaves the bytes of PMEM at power-on
to the parameter PMEM_INIT; a listing can give every address any byte, so every PMEM_INIT is a memory. -/
def blankByte : Byte := 0#8

/-- The byte at address `a`. -/
def readByte : Memory → Nat → Byte
  | [], _ => blankByte
  | (k, b) :: rest, a => if k = a then b else readByte rest a

/-- `PMEM[a] <- v`, keeping the canonical form. -/
def writeByte : Memory → Nat → Byte → Memory
  | [], a, v => if v = blankByte then [] else [(a, v)]
  | (k, b) :: rest, a, v =>
      if a < k then
        if v = blankByte then (k, b) :: rest else (a, v) :: (k, b) :: rest
      else if a = k then
        if v = blankByte then rest else (a, v) :: rest
      else (k, b) :: writeByte rest a v

/-- Every listed address is above `low` and the canonical form holds from there on. -/
def wfAbove : Nat → Memory → Bool
  | _, [] => true
  | low, (k, b) :: rest => decide (low < k) && decide (b ≠ blankByte) && wfAbove k rest

/-- The canonical form: addresses strictly rising, no entry equal to what an unlisted address reads as. -/
def Memory.wf : Memory → Bool
  | [] => true
  | (k, b) :: rest => decide (b ≠ blankByte) && wfAbove k rest

/-- `MemRead(addr, 4)`, little-endian (rules R62, R63). -/
def readWord (m : Memory) (a : Nat) : Word :=
  readByte m (a + 3) ++ readByte m (a + 2) ++ readByte m (a + 1) ++ readByte m a

/-- `MemWrite(addr, 4, v)`, little-endian (rules R62, R63). -/
def writeWord (m : Memory) (a : Nat) (v : Word) : Memory :=
  writeByte (writeByte (writeByte (writeByte m a (v.extractLsb' 0 8)) (a + 1) (v.extractLsb' 8 8))
    (a + 2) (v.extractLsb' 16 8)) (a + 3) (v.extractLsb' 24 8)

/-- The state with another pixel memory. -/
def setMem (s : State) (m : Memory) : State := { s with mem := m }

/-! ### Regions (rules R66, R67) -/

/-- The region `[b, b + n)` is inside a PMEM of `size` bytes, and an empty region always is (rule R67).
DEDUCED (note 10): the pseudocode of rules R140, R150, R160 and R166 writes `b + n > PMEM_SIZE` alone, which differs
for an empty region above PMEM_SIZE; rule R67, the corner case of rule R140 and rule R205 say that it raises nothing. -/
def regionInside (size b n : Nat) : Bool := decide (n = 0) || decide (b + n ≤ size)

/-- `[b1, b1 + n1)` and `[b2, b2 + n2)` overlap (rule R67). -/
def regionsOverlap (b1 n1 b2 n2 : Nat) : Bool :=
  decide (0 < n1) && decide (0 < n2) && decide (b1 < b2 + n2) && decide (b2 < b1 + n1)

/-- The base of a word region is a multiple of 4 (rule R66). -/
def wordAligned (b : Nat) : Bool := decide (b % 4 = 0)

/-! ### Row-major grids (rule R68) -/

/-- The positions (column, row) of a grid `w` wide and `h` high, row by row: the order of `for r in [0, h), c in [0, w)`. -/
def grid (w h : Nat) : List (Nat × Nat) := (List.range (w * h)).map fun k => (k % w, k / w)

/-- The address of element (column, row) of a row-major word grid `w` wide at base `b`. -/
def wordGridAddr (b w col row : Nat) : Nat := b + 4 * (row * w + col)

/-- The address of element (column, row) of a row-major byte grid `w` wide at base `b`. -/
def byteGridAddr (b w col row : Nat) : Nat := b + row * w + col

/-! ### Palette RAM (rules R40, R100) -/

/-- `PAL_SIZE` (rule R40). -/
def palSize (s : State) : Nat := s.pal.length

/-- `PAL[i]`: an entry at or beyond `PAL_SIZE` reads 0 (rule R40). -/
def palEntry (pal : List Word) (i : Nat) : Word := pal.getD i 0#32

/-- The index `j < PAL_SIZE` with `PAL[j] = c`, scanning upwards (rule R100). -/
def palLookup (pal : List Word) (c : Word) : Option Nat :=
  (List.range pal.length).find? fun j => palEntry pal j == c

/-- The RESULT of "ignored" and of "not found" (rules R101, R102). -/
def noIndex : Word := 0xFFFFFFFF#32

/-! ### How a command ends (rules R32, R200, R201) -/

/-- The code of an error in `ERR_CODE[7:0]` (rule R200). -/
def errorCode : CommandError → BitVec 8
  | .badFactor => 0x01
  | .dimTooSmall => 0x02
  | .dimNotDiv4 => 0x03
  | .noMem => 0x04
  | .illegalOpcode => 0x05
  | .reservedBits => 0x06
  | .badMode => 0x07
  | .notInit => 0x08
  | .bounds => 0x09
  | .align => 0x0A
  | .overlap => 0x0B
  | .badOperand => 0x0C

/-- `IRQ_STATUS.SIG`, bit 0 (rule R27). -/
def irqSigBit : BitVec 3 := 0b001#3

/-- `IRQ_STATUS.ERR`, bit 1 (rule R27). -/
def irqErrBit : BitVec 3 := 0b010#3

/-- `IRQ_STATUS.OVF`, bit 2 (rule R27). -/
def irqOvfBit : BitVec 3 := 0b100#3

/-- Set event bits of `IRQ_STATUS`, leaving the others (rule R27). -/
def setIrq (bits : BitVec 3) (s : State) : State := { s with irqStatus := s.irqStatus ||| bits }

/-- `raise Error(e)` in a command with header `h`: exactly the writes of rule R201. This is the block's only exception
entry: it saves the code and the header and halts the engine, with no vector and no mode (rule R206). -/
def raiseError (e : CommandError) (h : Word) (s : State) : State :=
  { s with
    errCode := errorCode e
    errHeader := h
    halted := true
    irqStatus := s.irqStatus ||| irqErrBit }

/-- `CMD_COUNT <- (CMD_COUNT + 1) mod 2^32`, at the end of a command that completed (rule R32). -/
def countCommand (s : State) : State := { s with cmdCount := s.cmdCount + 1#32 }

/-- A command with header `h`: it raises the first error its checks found, before any write (rules R9, R201, R202), or makes
its writes and counts. -/
def finishCommand (h : Word) (err : Option CommandError) (effect : State → State) (s : State) : Result :=
  match err with
  | some e => .next (raiseError e h s)
  | none => .next (countCommand (effect s))

/-! ### Return from an error, flush and reset (rules R23, R203, R230, R231) -/

/-- `CTRL.RESUME`: the return from an error (rules R23, R203). -/
def resumeEngine (s : State) : State :=
  if s.halted then { s with halted := false, errCode := 0 } else s

/-- `CTRL.FLUSH`: every word of the FIFO is discarded (rule R23). -/
def flushFifo (s : State) : State := { s with fifo := [] }

/-- The reset of rule R230, which the soft reset equals (rule R231): every row of the table but PMEM, which is unchanged.
The ports' own fields are no rows of it (note 8). -/
def resetBlock (s : State) : State :=
  { State.powerOn s.params s.mem with port := s.port, portResponse := s.portResponse }

end Sys2Proof.Machine
end

