-- ==== Sys2Proof/Machine/Operands.lean ====
section
/-! DEFINITION. The operand forms that are taken apart after decoding: packed colours (rule R65), index values (rule R84),
the fixed-point words of LIGHT (rules R85, R165), and the configuration a draw reads (rules R50, R68). The signed and
unsigned operand words are read in Decode.lean (rule R84). -/

namespace Sys2Proof.Machine

/-! ### Packed colours (rule R65) -/

/-- `Pack(r, g, b, a)`. -/
def pack (r g b a : Byte) : Word := a ++ b ++ g ++ r

/-- The channels of `Unpack(c)`. -/
def redOf (c : Word) : Byte := c.extractLsb' 0 8

/-- The channels of `Unpack(c)`. -/
def greenOf (c : Word) : Byte := c.extractLsb' 8 8

/-- The channels of `Unpack(c)`. -/
def blueOf (c : Word) : Byte := c.extractLsb' 16 8

/-- The channels of `Unpack(c)`. -/
def alphaOf (c : Word) : Byte := c.extractLsb' 24 8

/-! ### Index values (rule R84) -/

/-- Bits [31:8] of an index value, which must be 0. -/
def indexReserved (v : Word) : BitVec 24 := v.extractLsb' 8 24

/-- The palette index of an index value, bits [7:0]. -/
def indexOf (v : Word) : Byte := v.extractLsb' 0 8

/-! ### Fixed-point words of LIGHT (rules R85, R165) -/

/-- `op[10][31:17]`, reserved. -/
def enableReserved (ie : Word) : BitVec 15 := ie.extractLsb' 17 15

/-- `op[11][31:16]`, reserved. -/
def ambientReserved (am : Word) : BitVec 16 := am.extractLsb' 16 16

/-- `op[10][15:0]`, unsigned Q8.8: the intensity in 256ths. -/
def intensityOf (ie : Word) : Nat := (ie.extractLsb' 0 16).toNat

/-- `op[10][16]`, the light's enable flag. -/
def enableOf (ie : Word) : Bool := ie.getLsbD 16

/-- `op[11][15:0]`, unsigned Q8.8: the ambient term in 256ths. -/
def ambientOf (am : Word) : Nat := (am.extractLsb' 0 16).toNat

/-- The parameters of the point light (rule R165). -/
structure LightParams where
  x         : Int
  y         : Int
  /-- the light colour; its alpha is ignored -/
  color     : Word
  range     : Nat
  intensity : Nat
  enable    : Bool
  ambient   : Nat
  deriving DecidableEq, Repr

/-- The light of operands 6 to 11 (rule R165). -/
def lightParams (lx ly : Int) (color : Word) (range : Nat) (ie am : Word) : LightParams where
  x := lx
  y := ly
  color := color
  range := range
  intensity := intensityOf ie
  enable := enableOf ie
  ambient := ambientOf am

/-! ### Upscale factors -/

/-- A factor is one of 1, 2, 4 and 8 (rules R50, R150, R182). -/
def legalFactor (f : Nat) : Bool := f == 1 || f == 2 || f == 4 || f == 8

/-! ### The configuration a draw reads (rules R50, R68) -/

/-- The raster modes of rule R83. -/
inductive DrawMode where
  | replace | blend | index
  deriving DecidableEq, Repr

/-- Size and bases of the buffers a draw writes (rules R50, R112). -/
structure Canvas where
  width   : Nat
  height  : Nat
  fbBase  : Nat
  idxBase : Nat
  deriving DecidableEq, Repr

/-- The canvas of the configuration registers. -/
def canvas (s : State) : Canvas where
  width := s.cfgWidth.toNat
  height := s.cfgHeight.toNat
  fbBase := s.cfgFbBase.toNat
  idxBase := s.cfgIdxBase.toNat

/-- The buffer a mode writes: its base and its length in bytes (rules R68, R83). -/
def targetRegion (mode : DrawMode) (cv : Canvas) : Nat × Nat :=
  match mode with
  | .replace | .blend => (cv.fbBase, 4 * (cv.width * cv.height))
  | .index => (cv.idxBase, cv.width * cv.height)

/-- The mode's buffer is inside PMEM. INIT checks it (rules R113, R182), so it holds in every state a run reaches. -/
def targetInside (mode : DrawMode) (s : State) : Bool :=
  regionInside s.params.pmemSize (targetRegion mode (canvas s)).1 (targetRegion mode (canvas s)).2

end Sys2Proof.Machine
end

