-- ==== Sys2Proof/Machine/Control.lean ====
section
/-! DEFINITION. The control commands (45_control.md): NOP, INIT, SIGNAL and SIGNAL.IRQ. -/

namespace Sys2Proof.Machine

/-- NOP (rule R180). -/
def execNop (s : State) : Result := finishCommand (headerWord .nop) none id s

/-! ### INIT (rule R182) -/

/-- Any two of the three configured buffers overlap (rules R67, R182). -/
def buffersOverlap (f w h bi bf bo : Nat) : Bool :=
  regionsOverlap bi (w * h) bf (4 * w * h) || regionsOverlap bi (w * h) bo (4 * w * h * f * f)
    || regionsOverlap bf (4 * w * h) bo (4 * w * h * f * f)

/-- The checks of INIT, in the order of rule R182. -/
def initError (f w h bi bf bo : Nat) (s : State) : Option CommandError :=
  if !legalFactor f then some .badFactor
  else if decide (w < s.params.minDim) || decide (h < s.params.minDim) then some .dimTooSmall
  else if decide (w % 4 ≠ 0) || decide (h % 4 ≠ 0) then some .dimNotDiv4
  else if !wordAligned bi || !wordAligned bf || !wordAligned bo then some .align
  else if !regionInside s.params.pmemSize bi (w * h) || !regionInside s.params.pmemSize bf (4 * w * h)
      || !regionInside s.params.pmemSize bo (4 * w * h * f * f) then some .noMem
  else if buffersOverlap f w h bi bf bo then some .overlap
  else none

/-- The writes of a successful INIT: the configuration, and a new, empty palette (rules R40, R182). -/
def configure (f w h bi bf bo : Nat) (s : State) : State :=
  { s with
    cfgFactor := BitVec.ofNat 32 f
    cfgWidth := BitVec.ofNat 32 w
    cfgHeight := BitVec.ofNat 32 h
    cfgIdxBase := BitVec.ofNat 32 bi
    cfgFbBase := BitVec.ofNat 32 bf
    cfgOutBase := BitVec.ofNat 32 bo
    cfgValid := true
    pal := [] }

/-- `CFG_VALID <- 0`, the one write of a failed INIT beside the error's own (rules R182, R201). -/
def invalidateConfig (s : State) : State := { s with cfgValid := false }

/-- INIT (rule R182). -/
def execInit (factor width height idxBase fbBase outBase : Nat) (s : State) : Result :=
  let err := initError factor width height idxBase fbBase outBase s
  finishCommand (headerWord (.init factor width height idxBase fbBase outBase)) err
    (configure factor width height idxBase fbBase outBase) (if err = none then s else invalidateConfig s)

/-! ### SIGNAL (rule R186) -/

/-- `SIGNAL <- v` (rule R186). -/
def setSignal (v : Word) (s : State) : State := { s with signal := v }

/-- SIGNAL (rule R186). -/
def execSignal (value : Word) (s : State) : Result :=
  finishCommand (headerWord (.signal value)) none (setSignal value) s

/-- SIGNAL.IRQ (rule R186). -/
def execSignalIrq (value : Word) (s : State) : Result :=
  finishCommand (headerWord (.signalIrq value)) none (fun s => setIrq irqSigBit (setSignal value s)) s

end Sys2Proof.Machine
end

