-- ==== Sys2Proof/Machine/Convert.lean ====
section
/-! DEFINITION. The palette converter (42_convert.md) and the upscaler (43_upscale.md): CONVERT and UPSCALE. -/

namespace Sys2Proof.Machine

/-! ### CONVERT (rule R140) -/

/-- The checks of CONVERT, in the order of rule R140. -/
def convertError (dst src n : Nat) (s : State) : Option CommandError :=
  if !wordAligned dst then some .align
  else if !regionInside s.params.pmemSize src n || !regionInside s.params.pmemSize dst (4 * n) then some .bounds
  else if regionsOverlap src n dst (4 * n) then some .overlap
  else none

/-- The gather: `for i in [0, n): MemWrite(dst + 4·i, 4, PAL[MemRead(src + i, 1)])` (rule R140). -/
def convertMem (pal : List Word) (dst src n : Nat) (m : Memory) : Memory :=
  (List.range n).foldl (fun m i => writeWord m (dst + 4 * i) (palEntry pal (readByte m (src + i)).toNat)) m

/-- CONVERT (rule R140). -/
def execConvert (dst src count : Nat) (s : State) : Result :=
  finishCommand (headerWord (.convert dst src count)) (convertError dst src count s)
    (fun s => setMem s (convertMem s.pal dst src count s.mem)) s

/-! ### UPSCALE (rule R150) -/

/-- The checks of UPSCALE, in the order of rule R150. -/
def upscaleError (dst src w h f : Nat) (s : State) : Option CommandError :=
  if !legalFactor f then some .badFactor
  else if !wordAligned dst || !wordAligned src then some .align
  else if !regionInside s.params.pmemSize src (4 * w * h)
      || !regionInside s.params.pmemSize dst (4 * w * h * f * f) then some .bounds
  else if regionsOverlap src (4 * w * h) dst (4 * w * h * f * f) then some .overlap
  else none

/-- The replication: destination pixel (X, Y) is source pixel (X div f, Y div f) (rule R150). -/
def upscaleMem (dst src w h f : Nat) (m : Memory) : Memory :=
  (grid (w * f) (h * f)).foldl (fun m p =>
    writeWord m (wordGridAddr dst (w * f) p.1 p.2) (readWord m (wordGridAddr src w (p.1 / f) (p.2 / f)))) m

/-- UPSCALE (rule R150). -/
def execUpscale (dst src srcW srcH factor : Nat) (s : State) : Result :=
  finishCommand (headerWord (.upscale dst src srcW srcH factor)) (upscaleError dst src srcW srcH factor s)
    (fun s => setMem s (upscaleMem dst src srcW srcH factor s.mem)) s

end Sys2Proof.Machine
end

