-- ==== Sys2Proof/Machine/Palette.lean ====
section
/-! DEFINITION. The palette commands (40_palette.md): PAL_ADD and PAL_FIND. -/

namespace Sys2Proof.Machine

/-- The writes of PAL_ADD (rule R101): lookup before insert, append while there is room, and a full palette ignores the
colour. -/
def palAddEffect (c : Word) (s : State) : State :=
  match palLookup s.pal c with
  | some j => { s with result := BitVec.ofNat 32 j }
  | none =>
      if palSize s < Config.paletteEntries then
        { s with pal := s.pal ++ [c], result := BitVec.ofNat 32 (palSize s) }
      else { s with result := noIndex }

/-- The writes of PAL_FIND (rule R102). -/
def palFindEffect (c : Word) (s : State) : State :=
  match palLookup s.pal c with
  | some j => { s with result := BitVec.ofNat 32 j }
  | none => { s with result := noIndex }

/-- PAL_ADD (rule R101). -/
def execPalAdd (color : Word) (s : State) : Result :=
  finishCommand (headerWord (.palAdd color)) none (palAddEffect color) s

/-- PAL_FIND (rule R102). -/
def execPalFind (color : Word) (s : State) : Result :=
  finishCommand (headerWord (.palFind color)) none (palFindEffect color) s

end Sys2Proof.Machine
end

