-- ==== Sys2Proof/Machine/Pixel.lean ====
section
/-! DEFINITION. The per-pixel operations of the rasteriser: compositing (rule R110), the per-pixel write (rule R112), and
the ordered pixel lists of lines and rectangles (rules R117, R120, R123, R125). -/

namespace Sys2Proof.Machine

/-! ### Compositing (rule R110) -/

/-- `ch(s, d)` under the source alpha `sa`, each in [0, 255]. -/
def blendChannel (sa s d : Nat) : Nat := (s * sa + d * (255 - sa) + 127) / 255

/-- The alpha of the result: `Sa + (da·(255 - Sa) + 127) div 255`. -/
def blendAlpha (sa da : Nat) : Nat := sa + (da * (255 - sa) + 127) / 255

/-- `Blend(src, dst)`. -/
def blend (src dst : Word) : Word :=
  let sa := (alphaOf src).toNat
  pack (BitVec.ofNat 8 (blendChannel sa (redOf src).toNat (redOf dst).toNat))
    (BitVec.ofNat 8 (blendChannel sa (greenOf src).toNat (greenOf dst).toNat))
    (BitVec.ofNat 8 (blendChannel sa (blueOf src).toNat (blueOf dst).toNat))
    (BitVec.ofNat 8 (blendAlpha sa (alphaOf dst).toNat))

/-! ### The per-pixel write (rule R112) -/

/-- The pixel is on the canvas: `0 ≤ x < W` and `0 ≤ y < H`. -/
def onCanvas (cv : Canvas) (x y : Int) : Bool :=
  decide (0 ≤ x) && decide (x < cv.width) && decide (0 ≤ y) && decide (y < cv.height)

/-- `Plot(mode, x, y, v)`: a pixel off the canvas is dropped silently. -/
def plot (mode : DrawMode) (cv : Canvas) (x y : Int) (v : Word) (m : Memory) : Memory :=
  if onCanvas cv x y then
    let fbAddr := wordGridAddr cv.fbBase cv.width x.toNat y.toNat
    match mode with
    | .replace => writeWord m fbAddr v
    | .blend => writeWord m fbAddr (blend v (readWord m fbAddr))
    | .index => writeByte m (byteGridAddr cv.idxBase cv.width x.toNat y.toNat) (indexOf v)
  else m

/-- `for (x, y) in pixels: Plot(mode, x, y, v)`. -/
def plotAll (mode : DrawMode) (cv : Canvas) (v : Word) (pixels : List (Int × Int)) (m : Memory) : Memory :=
  pixels.foldl (fun m p => plot mode cv p.1 p.2 v m) m

/-! ### Bresenham line (rule R117) -/

/-- The loop of rule R117 from the pixel (x, y) with the error accumulator `err`, for at most `fuel` pixels. -/
def bresenhamFrom (dx dy sx sy x1 y1 : Int) : Nat → Int → Int → Int → List (Int × Int)
  | 0, _, _, _ => []
  | fuel + 1, x, y, err =>
      (x, y) ::
        if x = x1 ∧ y = y1 then []
        else
          let e2 := 2 * err
          let stepX := decide (e2 > -dy)
          let stepY := decide (e2 < dx)
          bresenhamFrom dx dy sx sy x1 y1 fuel
            (if stepX then x + sx else x)
            (if stepY then y + sy else y)
            (err + (if stepX then -dy else 0) + (if stepY then dx else 0))

/-- `BresenhamPixels(x0, y0, x1, y1)`. The fuel is the number of entries rule R117 gives the list, max(dx, dy) + 1
(DEDUCED, note 11). -/
def bresenhamPixels (x0 y0 x1 y1 : Int) : List (Int × Int) :=
  let dx : Int := (x1 - x0).natAbs
  let dy : Int := (y1 - y0).natAbs
  let sx : Int := if x0 < x1 then 1 else -1
  let sy : Int := if y0 < y1 then 1 else -1
  bresenhamFrom dx dy sx sy x1 y1 (max (x1 - x0).natAbs (y1 - y0).natAbs + 1) x0 y0 (dx - dy)

/-! ### Parametric line (rule R120) -/

/-- `ParamPixels(x0, y0, x1, y1)`: the samples t = 0, ..., steps, each rounded to `floor(P(t) + 1/2)`. Division of integers is floor division here, as in
rule R8: the divisor is positive. -/
def paramPixels (x0 y0 x1 y1 : Int) : List (Int × Int) :=
  let dx := x1 - x0
  let dy := y1 - y0
  let steps := max dx.natAbs dy.natAbs
  if steps = 0 then [(x0, y0)]
  else
    (List.range (steps + 1)).map fun t =>
      (x0 + (2 * t * dx + steps) / (2 * steps), y0 + (2 * t * dy + steps) / (2 * steps))

/-! ### Rectangles (rules R123, R125) -/

/-- The four boundary lines of a rectangle, pixel by pixel: top, bottom, left, right (rules R123, R124). -/
def outlinePixels (x y w h : Int) : List (Int × Int) :=
  if 1 ≤ w ∧ 1 ≤ h then
    bresenhamPixels x y (x + w - 1) y
      ++ bresenhamPixels x (y + h - 1) (x + w - 1) (y + h - 1)
      ++ bresenhamPixels x y x (y + h - 1)
      ++ bresenhamPixels (x + w - 1) y (x + w - 1) (y + h - 1)
  else []

/-- The pixels `[x, x+w) × [y, y+h)`, row by row; none when w ≤ 0 or h ≤ 0 (rules R123, R126). -/
def fillPixels (x y w h : Int) : List (Int × Int) :=
  (grid w.toNat h.toNat).map fun p => (x + p.1, y + p.2)

end Sys2Proof.Machine
end

