-- ==== Sys2Proof/Machine/Raster.lean ====
section
/-! DEFINITION. The primitive rasteriser (41_raster.md): CLEAR, PIXEL, LINE, LINEP, RECT and FILL in their replace, blend
and index modes. -/

namespace Sys2Proof.Machine

/-- The checks of rule R113, in its order. -/
def rasterError (mode : DrawMode) (value : Word) (s : State) : Option CommandError :=
  if !s.cfgValid then some .notInit
  else if mode = .index ∧ indexReserved value ≠ 0#24 then some .badOperand
  else none

/-- A raster command with header `h`: the checks of rule R113, then `draw` on pixel memory, then the count. -/
def drawCommand (h : Word) (err : Option CommandError) (mode : DrawMode) (draw : Canvas → Memory → Memory)
    (s : State) : Result :=
  if err = none ∧ !targetInside mode s then .fault .bufferOutsidePmem
  else finishCommand h err (fun s => setMem s (draw (canvas s) s.mem)) s

/-- The writes of CLEAR and CLEAR.I: every pixel of the target buffer (rule R114). -/
def clearMem (mode : DrawMode) (v : Word) (cv : Canvas) (m : Memory) : Memory :=
  (grid cv.width cv.height).foldl (fun m p =>
    match mode with
    | .index => writeByte m (byteGridAddr cv.idxBase cv.width p.1 p.2) (indexOf v)
    | .replace | .blend => writeWord m (wordGridAddr cv.fbBase cv.width p.1 p.2) v) m

/-- A command that plots a list of pixels with one value (rules R116, R118, R122, R124, R126). -/
def plotCommand (i : Instr) (mode : DrawMode) (pixels : List (Int × Int)) (value : Word) (s : State) : Result :=
  drawCommand (headerWord i) (rasterError mode value s) mode (fun cv m => plotAll mode cv value pixels m) s

/-- CLEAR (rule R114). -/
def execClear (value : Word) (s : State) : Result :=
  drawCommand (headerWord (.clear value)) (rasterError .replace value s) .replace (clearMem .replace value) s

/-- CLEAR.I (rule R114). -/
def execClearI (value : Word) (s : State) : Result :=
  drawCommand (headerWord (.clearI value)) (rasterError .index value s) .index (clearMem .index value) s

/-- PIXEL (rule R116). -/
def execPixel (x y : Int) (value : Word) (s : State) : Result :=
  plotCommand (.pixel x y value) .replace [(x, y)] value s

/-- PIXEL.B (rule R116). -/
def execPixelB (x y : Int) (value : Word) (s : State) : Result :=
  plotCommand (.pixelB x y value) .blend [(x, y)] value s

/-- PIXEL.I (rule R116). -/
def execPixelI (x y : Int) (value : Word) (s : State) : Result :=
  plotCommand (.pixelI x y value) .index [(x, y)] value s

/-- LINE (rule R118). -/
def execLine (x0 y0 x1 y1 : Int) (value : Word) (s : State) : Result :=
  plotCommand (.line x0 y0 x1 y1 value) .replace (bresenhamPixels x0 y0 x1 y1) value s

/-- LINE.B (rule R118). -/
def execLineB (x0 y0 x1 y1 : Int) (value : Word) (s : State) : Result :=
  plotCommand (.lineB x0 y0 x1 y1 value) .blend (bresenhamPixels x0 y0 x1 y1) value s

/-- LINE.I (rule R118). -/
def execLineI (x0 y0 x1 y1 : Int) (value : Word) (s : State) : Result :=
  plotCommand (.lineI x0 y0 x1 y1 value) .index (bresenhamPixels x0 y0 x1 y1) value s

/-- LINEP (rule R122). -/
def execLinep (x0 y0 x1 y1 : Int) (value : Word) (s : State) : Result :=
  plotCommand (.linep x0 y0 x1 y1 value) .replace (paramPixels x0 y0 x1 y1) value s

/-- LINEP.B (rule R122). -/
def execLinepB (x0 y0 x1 y1 : Int) (value : Word) (s : State) : Result :=
  plotCommand (.linepB x0 y0 x1 y1 value) .blend (paramPixels x0 y0 x1 y1) value s

/-- LINEP.I (rule R122). -/
def execLinepI (x0 y0 x1 y1 : Int) (value : Word) (s : State) : Result :=
  plotCommand (.linepI x0 y0 x1 y1 value) .index (paramPixels x0 y0 x1 y1) value s

/-- RECT (rule R124). -/
def execRect (x y w h : Int) (value : Word) (s : State) : Result :=
  plotCommand (.rect x y w h value) .replace (outlinePixels x y w h) value s

/-- RECT.B (rule R124): a pixel on several boundary lines is blended once per line. -/
def execRectB (x y w h : Int) (value : Word) (s : State) : Result :=
  plotCommand (.rectB x y w h value) .blend (outlinePixels x y w h) value s

/-- RECT.I (rule R124). -/
def execRectI (x y w h : Int) (value : Word) (s : State) : Result :=
  plotCommand (.rectI x y w h value) .index (outlinePixels x y w h) value s

/-- FILL (rule R126). -/
def execFill (x y w h : Int) (value : Word) (s : State) : Result :=
  plotCommand (.fill x y w h value) .replace (fillPixels x y w h) value s

/-- FILL.B (rule R126). -/
def execFillB (x y w h : Int) (value : Word) (s : State) : Result :=
  plotCommand (.fillB x y w h value) .blend (fillPixels x y w h) value s

/-- FILL.I (rule R126). -/
def execFillI (x y w h : Int) (value : Word) (s : State) : Result :=
  plotCommand (.fillI x y w h value) .index (fillPixels x y w h) value s

end Sys2Proof.Machine
end

