-- ==== Sys2Proof/Machine/Sprite.lean ====
section
/-! DEFINITION. The sprite blitter and the point-light shader (44_sprite_light.md): BLIT, BLIT.B, LIGHT and LIGHT.B. -/

namespace Sys2Proof.Machine

/-! ### Shared by both (rules R160, R166) -/

/-- The checks on the sprite region, in the order of rules R160 and R166: ALIGN, BOUNDS, OVERLAP with the internal
framebuffer. -/
def spriteError (sb sw sh : Nat) (s : State) : Option CommandError :=
  if !wordAligned sb then some .align
  else if !regionInside s.params.pmemSize sb (4 * sw * sh) then some .bounds
  else if regionsOverlap sb (4 * sw * sh) s.cfgFbBase.toNat (4 * s.cfgWidth.toNat * s.cfgHeight.toNat) then
    some .overlap
  else none

/-- `for r in [0, sh), c in [0, sw)`: the sprite pixel at (c, r) is shaded for the position (x + c, y + r) and plotted there,
or skipped when its shade is none. -/
def drawSprite (mode : DrawMode) (x y : Int) (sb sw sh : Nat) (shade : Int → Int → Word → Option Word)
    (cv : Canvas) (m : Memory) : Memory :=
  (grid sw sh).foldl (fun m p =>
    match shade (x + p.1) (y + p.2) (readWord m (wordGridAddr sb sw p.1 p.2)) with
    | some c => plot mode cv (x + p.1) (y + p.2) c m
    | none => m) m

/-! ### BLIT (rule R160) -/

/-- The checks of BLIT, in the order of rule R160. -/
def blitError (sb sw sh : Nat) (s : State) : Option CommandError :=
  if !s.cfgValid then some .notInit else spriteError sb sw sh s

/-- The copied pixel is the sprite's own, alpha 0 included (rule R160). -/
def blitShade (_ _ : Int) (c : Word) : Option Word := some c

/-- BLIT (rule R160). -/
def execBlit (x y : Int) (sb sw sh : Nat) (s : State) : Result :=
  drawCommand (headerWord (.blit x y sb sw sh)) (blitError sb sw sh s) .replace
    (drawSprite .replace x y sb sw sh blitShade) s

/-- BLIT.B (rule R160). -/
def execBlitB (x y : Int) (sb sw sh : Nat) (s : State) : Result :=
  drawCommand (headerWord (.blitB x y sb sw sh)) (blitError sb sw sh s) .blend
    (drawSprite .blend x y sb sw sh blitShade) s

/-! ### LIGHT (rules R165, R166) -/

/-- The checks of LIGHT, in the order of rule R166. -/
def lightError (sb sw sh : Nat) (ie am : Word) (s : State) : Option CommandError :=
  if !s.cfgValid then some .notInit
  else if enableReserved ie ≠ 0#15 ∨ ambientReserved am ≠ 0#16 then some .badOperand
  else spriteError sb sw sh s

/-- `d2`, the squared distance of the pixel (px, py) from the light (rule R166). -/
def lightDist2 (lp : LightParams) (px py : Int) : Int := (px - lp.x) ^ 2 + (py - lp.y) ^ 2

/-- `Shade(s, L)` of rule R166 at squared distance `d2`, for one channel `sc` under the light channel `lc`. -/
def shadeChannel (lp : LightParams) (d2 : Int) (sc lc : Nat) : Int :=
  let r2 : Int := (lp.range : Int) * lp.range
  if lp.enable = false ∨ d2 ≥ r2 then min 255 ((sc * lp.ambient : Int) / 256)
  else min 255 ((sc * (lp.ambient * 255 * r2 + (r2 - d2) * lp.intensity * lc) : Int) / (256 * 255 * r2))

/-- The lit pixel at (px, py), its alpha passed through; none for a fully transparent source pixel (rule R166). -/
def lightShade (lp : LightParams) (px py : Int) (c : Word) : Option Word :=
  if alphaOf c = 0#8 then none
  else
    let d2 := lightDist2 lp px py
    some (pack (BitVec.ofInt 8 (shadeChannel lp d2 (redOf c).toNat (redOf lp.color).toNat))
      (BitVec.ofInt 8 (shadeChannel lp d2 (greenOf c).toNat (greenOf lp.color).toNat))
      (BitVec.ofInt 8 (shadeChannel lp d2 (blueOf c).toNat (blueOf lp.color).toNat)) (alphaOf c))

/-- LIGHT (rule R166). -/
def execLight (x y : Int) (sb sw sh : Nat) (lx ly : Int) (color : Word) (range : Nat) (ie am : Word)
    (s : State) : Result :=
  drawCommand (headerWord (.light x y sb sw sh lx ly color range ie am)) (lightError sb sw sh ie am s) .replace
    (drawSprite .replace x y sb sw sh (lightShade (lightParams lx ly color range ie am))) s

/-- LIGHT.B (rule R166). -/
def execLightB (x y : Int) (sb sw sh : Nat) (lx ly : Int) (color : Word) (range : Nat) (ie am : Word)
    (s : State) : Result :=
  drawCommand (headerWord (.lightB x y sb sw sh lx ly color range ie am)) (lightError sb sw sh ie am s) .blend
    (drawSprite .blend x y sb sw sh (lightShade (lightParams lx ly color range ie am))) s

end Sys2Proof.Machine
end

