-- ==== Sys2Proof/Machine/Dispatch.lean ====
section
/-! DEFINITION. One arm per command of the opcode map (rule R86). -/

namespace Sys2Proof.Machine

def exec (i : Instr) (s : State) : Host.Outcome State Fault Refusal :=
  match i with
  | .nop => Sys2Proof.Machine.execNop s
  | .init f w h bi bf bo => Sys2Proof.Machine.execInit f w h bi bf bo s
  | .signal v => Sys2Proof.Machine.execSignal v s
  | .signalIrq v => Sys2Proof.Machine.execSignalIrq v s
  | .palAdd c => Sys2Proof.Machine.execPalAdd c s
  | .palFind c => Sys2Proof.Machine.execPalFind c s
  | .clear v => Sys2Proof.Machine.execClear v s
  | .clearI v => Sys2Proof.Machine.execClearI v s
  | .pixel x y v => Sys2Proof.Machine.execPixel x y v s
  | .pixelB x y v => Sys2Proof.Machine.execPixelB x y v s
  | .pixelI x y v => Sys2Proof.Machine.execPixelI x y v s
  | .line x0 y0 x1 y1 v => Sys2Proof.Machine.execLine x0 y0 x1 y1 v s
  | .lineB x0 y0 x1 y1 v => Sys2Proof.Machine.execLineB x0 y0 x1 y1 v s
  | .lineI x0 y0 x1 y1 v => Sys2Proof.Machine.execLineI x0 y0 x1 y1 v s
  | .linep x0 y0 x1 y1 v => Sys2Proof.Machine.execLinep x0 y0 x1 y1 v s
  | .linepB x0 y0 x1 y1 v => Sys2Proof.Machine.execLinepB x0 y0 x1 y1 v s
  | .linepI x0 y0 x1 y1 v => Sys2Proof.Machine.execLinepI x0 y0 x1 y1 v s
  | .rect x y w h v => Sys2Proof.Machine.execRect x y w h v s
  | .rectB x y w h v => Sys2Proof.Machine.execRectB x y w h v s
  | .rectI x y w h v => Sys2Proof.Machine.execRectI x y w h v s
  | .fill x y w h v => Sys2Proof.Machine.execFill x y w h v s
  | .fillB x y w h v => Sys2Proof.Machine.execFillB x y w h v s
  | .fillI x y w h v => Sys2Proof.Machine.execFillI x y w h v s
  | .convert dst src n => Sys2Proof.Machine.execConvert dst src n s
  | .upscale dst src w h f => Sys2Proof.Machine.execUpscale dst src w h f s
  | .blit x y sb sw sh => Sys2Proof.Machine.execBlit x y sb sw sh s
  | .blitB x y sb sw sh => Sys2Proof.Machine.execBlitB x y sb sw sh s
  | .light x y sb sw sh lx ly c r ie am => Sys2Proof.Machine.execLight x y sb sw sh lx ly c r ie am s
  | .lightB x y sb sw sh lx ly c r ie am => Sys2Proof.Machine.execLightB x y sb sw sh lx ly c r ie am s

end Sys2Proof.Machine
end

