-- ==== Sys2Proof/Machine/Flags.lean ====
section
/-! DEFINITION. The status bits (rules R21, R24, R25, R27), the interrupt line (rule R210) and the engine's enabling
condition (rule R81). The block has no condition flags (rule R21). -/

namespace Sys2Proof.Machine

/-- The FIFO holds a complete packet at its head (rule R81). -/
def packetReady : List Word → Bool
  | [] => false
  | h :: rest => decide (packetLength h ≤ (h :: rest).length)

/-- `STATUS.BUSY`: the engine has an enabled step (rules R24, R81). -/
def busy (s : State) : Bool := !s.halted && packetReady s.fifo

/-- `STATUS.FIFO_EMPTY` (rule R24). -/
def fifoEmpty (s : State) : Bool := s.fifo.isEmpty

/-- `STATUS.FIFO_FULL` (rule R24). -/
def fifoFull (s : State) : Bool := s.fifo.length == s.params.fifoDepth

/-- `IRQ_STATUS.OVF` (rules R24, R27). -/
def irqOvf (s : State) : Bool := s.irqStatus.getLsbD 2

/-- A register whose named fields stand in its low bits and whose other bits read 0. -/
def lowBits {n : Nat} (v : BitVec n) : Word := v.setWidth 32

/-- `STATUS` (rule R24), most significant field first. -/
def statusWord (s : State) : Word :=
  0#8 ++ BitVec.ofNat 8 s.fifo.length ++ 0#10 ++ BitVec.ofBool (irqOvf s) ++ BitVec.ofBool (fifoFull s)
    ++ BitVec.ofBool (fifoEmpty s) ++ BitVec.ofBool s.cfgValid ++ BitVec.ofBool s.halted
    ++ BitVec.ofBool (busy s)

/-- The interrupt output `IRQ` (rule R210). -/
def irqLine (s : State) : Bool :=
  (s.irqStatus.getLsbD 0 && s.irqEnable.getLsbD 0) || (s.irqStatus.getLsbD 1 && s.irqEnable.getLsbD 1)
    || (s.irqStatus.getLsbD 2 && s.irqEnable.getLsbD 2)

end Sys2Proof.Machine
end

