-- ==== Sys2Proof/Machine/Ports.lean ====
section
/-! DEFINITION. What the host can do to the block: the register port (rules R22 to R33) and the memory port (rules R64,
R69). Each accepted access is one step and leaves its answer in `portResponse`. -/

namespace Sys2Proof.Machine

/-- The answer of a port to the access just made (note 8). -/
def respond (data : Word) (busError : Bool) (s : State) : State :=
  { s with portResponse := some { data := data, busError := busError } }

/-! ### Register port: reads -/

/-- What a 32-bit read of the register at a byte offset returns: the map of rule R22. A write-only register and an offset
the map does not name read 0 (rules R22, R33). -/
def registerValue (offset : Nat) (s : State) : Word :=
  match offset with
  | 0x000 => Config.idWord                                  -- ID
  | 0x004 => 0#32                                           -- CTRL
  | 0x008 => statusWord s                                   -- STATUS
  | 0x00C => lowBits s.errCode                              -- ERR_CODE
  | 0x010 => s.errHeader                                    -- ERR_HEADER
  | 0x014 => lowBits s.irqStatus                            -- IRQ_STATUS
  | 0x018 => lowBits s.irqEnable                            -- IRQ_ENABLE
  | 0x01C => 0#32                                           -- CMD_FIFO
  | 0x020 => s.result                                       -- RESULT
  | 0x024 => s.signal                                       -- SIGNAL
  | 0x028 => s.cmdCount                                     -- CMD_COUNT
  | 0x02C => BitVec.ofNat 32 (palSize s)                    -- PAL_SIZE
  | 0x030 => s.cfgFactor                                    -- CFG_FACTOR
  | 0x034 => s.cfgWidth                                     -- CFG_WIDTH
  | 0x038 => s.cfgHeight                                    -- CFG_HEIGHT
  | 0x03C => s.cfgIdxBase                                   -- CFG_IDX_BASE
  | 0x040 => s.cfgFbBase                                    -- CFG_FB_BASE
  | 0x044 => s.cfgOutBase                                   -- CFG_OUT_BASE
  | 0x048 => BitVec.ofNat 32 s.params.pmemSize              -- PMEM_SIZE_R
  | 0x04C => BitVec.ofNat 32 s.params.fifoDepth             -- FIFO_DEPTH_R
  | 0x050 => BitVec.ofNat 32 s.params.minDim                -- MIN_DIM_R
  | n =>
      if 0x400 ≤ n ∧ n < 0x800 ∧ n % 4 = 0 then palEntry s.pal ((n - 0x400) / 4)   -- PALETTE[i]
      else 0#32

/-- What a read of the register port returns: 0 for anything but a 32-bit access at a mapped multiple of 4 (rule R33). -/
def registerRead (offset : Word) (size : AccessSize) (s : State) : Word :=
  if size = .word ∧ offset.toNat % 4 = 0 then registerValue offset.toNat s else 0#32

/-! ### Register port: writes -/

/-- A write of CTRL: SOFT_RESET alone, or FLUSH and then RESUME (rule R23). -/
def writeCtrl (v : Word) (s : State) : State :=
  if v.getLsbD 0 then resetBlock s
  else
    let flushed := if v.getLsbD 2 then flushFifo s else s
    if v.getLsbD 1 then resumeEngine flushed else flushed

/-- A write of IRQ_STATUS clears the bits written with 1 (rule R27). -/
def writeIrqStatus (v : Word) (s : State) : State :=
  { s with irqStatus := s.irqStatus &&& ~~~(v.extractLsb' 0 3) }

/-- A write of IRQ_ENABLE takes bits [2:0] (rule R28). -/
def writeIrqEnable (v : Word) (s : State) : State := { s with irqEnable := v.extractLsb' 0 3 }

/-- A write of CMD_FIFO appends the word, or sets OVF and leaves the FIFO as it is when it is full (rule R29). -/
def pushFifo (v : Word) (s : State) : State :=
  if s.fifo.length < s.params.fifoDepth then { s with fifo := s.fifo ++ [v] } else setIrq irqOvfBit s

/-- The effect of a 32-bit write at a byte offset. Writes of read-only registers, of `PALETTE[i]` and of offsets the map
does not name are ignored (rules R22, R33). -/
def writeRegister (offset : Nat) (v : Word) (s : State) : State :=
  match offset with
  | 0x004 => writeCtrl v s
  | 0x014 => writeIrqStatus v s
  | 0x018 => writeIrqEnable v s
  | 0x01C => pushFifo v s
  | _ => s

/-- A write of the register port; one that is not a 32-bit access at a multiple of 4 has no effect (rule R33). -/
def registerWrite (offset : Word) (size : AccessSize) (v : Word) (s : State) : State :=
  if size = .word ∧ offset.toNat % 4 = 0 then writeRegister offset.toNat v s else s

/-- The one register write that answers with a bus error: CMD_FIFO on a full FIFO (rules R29, R219). -/
def registerWriteFails (offset : Word) (size : AccessSize) (s : State) : Bool :=
  decide (size = .word) && decide (offset.toNat = 0x01C) && !decide (s.fifo.length < s.params.fifoDepth)

/-! ### Memory port (rules R64, R69) -/

/-- An access of `n` bytes at `addr` is accepted: it is aligned when it is a 4-byte access, and inside PMEM (rule R69). -/
def memAccessOk (addr n : Nat) (s : State) : Bool := decide (addr % n = 0) && decide (addr + n ≤ s.params.pmemSize)

/-- The access goes through the memory port, and so waits while the engine is busy (rule R70). -/
def isMemAccess : HostAccess → Bool
  | .memReadByte _ | .memReadWord _ | .memWriteByte _ _ | .memWriteWord _ _ => true
  | .regRead _ _ | .regWrite _ _ _ => false

/-- One accepted access of the host: its effect and its answer. DESIGN CHOICE (note 8): the byte of a 1-byte read stands in
bits [7:0] of the answer with bits [31:8] = 0, and the answer to a write has data 0. -/
def hostAccess (a : HostAccess) (s : State) : State :=
  match a with
  | .regRead off size => respond (registerRead off size s) false s
  | .regWrite off size v => respond 0#32 (registerWriteFails off size s) (registerWrite off size v s)
  | .memReadByte addr =>
      if memAccessOk addr.toNat 1 s then respond ((readByte s.mem addr.toNat).setWidth 32) false s
      else respond 0#32 true s
  | .memReadWord addr =>
      if memAccessOk addr.toNat 4 s then respond (readWord s.mem addr.toNat) false s else respond 0#32 true s
  | .memWriteByte addr v =>
      if memAccessOk addr.toNat 1 s then respond 0#32 false (setMem s (writeByte s.mem addr.toNat v))
      else respond 0#32 true s
  | .memWriteWord addr v =>
      if memAccessOk addr.toNat 4 s then respond 0#32 false (setMem s (writeWord s.mem addr.toNat v))
      else respond 0#32 true s

end Sys2Proof.Machine
end

