-- ==== Sys2Proof/Machine/Engine.lean ====
section
/-! DEFINITION. The two agents of rule R11 and how they take turns: the engine's step (rules R10, R81), the host's
accesses, and the hold of rule R70. -/

namespace Sys2Proof.Machine

/-- The state with another FIFO. -/
def setFifo (s : State) (words : List Word) : State := { s with fifo := words }

/-- The state with another script of the outside. -/
def setPort (s : State) (events : List PortEvent) : State := { s with port := events }

/-- The packet at the head of the FIFO is removed, whether it completes or raises an error, and executed (rules R81, R87,
R88, R89). -/
def executePacket (s : State) : Result :=
  match s.fifo with
  | [] => .next s
  | h :: rest =>
      let removed := setFifo s ((h :: rest).drop (packetLength h))
      match decodePacket h (rest.take (packetLength h - 1)) with
      | .instr i => exec i removed
      | .error e => .next (raiseError e h removed)

/-- The engine's turn: one packet when its step is enabled, nothing otherwise (rules R46, R47, R81). A step that finds
nothing to do leaves the state as it is (note 5). -/
def engineStep (s : State) : Result := if busy s then executePacket s else .next s

/-- One step of the block: the next event of the outside, or the engine when the script is empty. A memory access met while
BUSY = 1 is held, and the engine steps instead (rule R70). -/
def agentStep (s : State) : Result :=
  match s.port with
  | [] => engineStep s
  | .engineTurn :: rest => engineStep (setPort s rest)
  | .resetInput :: rest => .next (resetBlock (setPort s rest))
  | .access a :: rest =>
      if isMemAccess a && busy s then engineStep s else .next (hostAccess a (setPort s rest))

/-- The state in which the packet `words` is all the FIFO holds and the engine is about to execute it: what FLUSH, RESUME
and one write of CMD_FIFO per word leave (rules R23, R29; note 6). -/
def loadPacket (words : List Word) (s : State) : State := setPort (setFifo (resumeEngine s) words) []

end Sys2Proof.Machine
end

