-- ==== Sys2Proof/Machine/Step.lean ====
section
/-! DEFINITION. The block's step, and the placing of one packet where the next step takes it. -/

namespace Sys2Proof.Machine

/-- One step of the block (rules R11, R70, R81). -/
def step (s : State) : Host.Outcome State Fault Refusal := agentStep s

/-- `s` with an opcode-table word's packet at the head of the FIFO, so that the very next step executes it (note 6). -/
def State.withFetchWord (s : State) (nbits w : Nat) : State := loadPacket (tablePacket nbits w) s

end Sys2Proof.Machine
end

