-- ==== Sys2Proof/Machine/Frame.lean ====
section
/-! DEFINITION. The pseudo-instructions of rule R94: the commands they expand to. `CONVERT.FRAME` and `UPSCALE.FRAME` are
the palette-convert and upscale steps of the frame pipeline (rules R142, R155, R188). -/

namespace Sys2Proof.Machine

/-- `CONVERT.FRAME` under the configuration of `s` (rules R94, R142). -/
def convertFrame (s : State) : Instr :=
  .convert s.cfgFbBase.toNat s.cfgIdxBase.toNat (s.cfgWidth.toNat * s.cfgHeight.toNat)

/-- `UPSCALE.FRAME` under the configuration of `s` (rules R94, R155). -/
def upscaleFrame (s : State) : Instr :=
  .upscale s.cfgOutBase.toNat s.cfgFbBase.toNat s.cfgWidth.toNat s.cfgHeight.toNat s.cfgFactor.toNat

/-- `SETPIX x, y, c` (rule R94). -/
def setPix (x y : Int) (c : Word) : Instr := .pixel x y c

/-- `BLENDPIX x, y, c` (rule R94). -/
def blendPix (x y : Int) (c : Word) : Instr := .pixelB x y c

end Sys2Proof.Machine
end

