-- ==== Sys2Proof/Machine/Assembler.lean ====
section
/-! DEFINITION. The textual syntax of rule R93: one packet per line, `MNEMONIC op1, op2, ...`, with decimal and `0x`
hexadecimal integers, `rgba(r, g, b, a)` colours and `;` comments, and the pseudo-instructions of rule R94.
A number outside the range of its operand, and a line of any other form, is refused (note 12). -/

namespace Sys2Proof.Machine

/-- A source operand: an integer or a colour by its channels. -/
inductive AsmOperand where
  | int (v : Int)
  | rgba (r g b a : Int)
  deriving DecidableEq, Repr

/-- A token of a source line. -/
inductive AsmToken where
  | text (cs : List Char)
  | comma
  | lparen
  | rparen
  deriving DecidableEq, Repr

/-! ### Operands to words (rules R65, R84, R85, R93) -/

/-- The integer fits a 32-bit word, signed or unsigned. -/
def asmFits (v : Int) : Bool := decide (-2 ^ 31 ≤ v) && decide (v < 2 ^ 32)

/-- A coordinate or size: the value of its two's complement word, so that `0xFFFFFFFF` is -1 (rules R84, R93). -/
def asmSigned : AsmOperand → Option Int
  | .int v => if asmFits v then some (signedOperand (signedWord v)) else none
  | .rgba .. => none

/-- A natural number below a bound. -/
def asmBelow (bound : Nat) : AsmOperand → Option Nat
  | .int v => if 0 ≤ v ∧ v < bound then some v.toNat else none
  | .rgba .. => none

/-- An address or count: a 32-bit unsigned number (rule R93). -/
def asmUnsigned (o : AsmOperand) : Option Nat := asmBelow (2 ^ 32) o

/-- A colour, an index value or a raw word (rules R84, R93). DESIGN CHOICE (note 12): `rgba(...)`, which rule R93 gives for a
colour only, is accepted for an index value and for the raw word of SIGNAL too. -/
def asmWord : AsmOperand → Option Word
  | .int v => if asmFits v then some (BitVec.ofInt 32 v) else none
  | .rgba r g b a =>
      if 0 ≤ r ∧ r ≤ 255 ∧ 0 ≤ g ∧ g ≤ 255 ∧ 0 ≤ b ∧ b ≤ 255 ∧ 0 ≤ a ∧ a ≤ 255 then
        some (pack (BitVec.ofInt 8 r) (BitVec.ofInt 8 g) (BitVec.ofInt 8 b) (BitVec.ofInt 8 a))
      else none

/-- `op[10]` of LIGHT from its two source operands: `{15'b0, enable, intensity}` (rules R85, R93). -/
def asmEnableWord (intensity enable : AsmOperand) : Option Word := do
  let i ← asmBelow (2 ^ 16) intensity
  let e ← asmBelow 2 enable
  return BitVec.ofNat 32 (e * 2 ^ 16 + i)

/-- `op[11]` of LIGHT (rules R85, R93). -/
def asmAmbientWord (ambient : AsmOperand) : Option Word :=
  (asmBelow (2 ^ 16) ambient).map (BitVec.ofNat 32)

/-! ### Operand lists of one shape -/

def asmOne (k : Word → Instr) : List AsmOperand → Option Instr
  | [v] => do return k (← asmWord v)
  | _ => none

def asmPoint (k : Int → Int → Word → Instr) : List AsmOperand → Option Instr
  | [x, y, v] => do return k (← asmSigned x) (← asmSigned y) (← asmWord v)
  | _ => none

def asmFour (k : Int → Int → Int → Int → Word → Instr) : List AsmOperand → Option Instr
  | [a, b, c, d, v] => do
      return k (← asmSigned a) (← asmSigned b) (← asmSigned c) (← asmSigned d) (← asmWord v)
  | _ => none

def asmBlit (k : Int → Int → Nat → Nat → Nat → Instr) : List AsmOperand → Option Instr
  | [x, y, b, w, h] => do
      return k (← asmSigned x) (← asmSigned y) (← asmUnsigned b) (← asmUnsigned w) (← asmUnsigned h)
  | _ => none

def asmLight (k : Int → Int → Nat → Nat → Nat → Int → Int → Word → Nat → Word → Word → Instr) :
    List AsmOperand → Option Instr
  | [x, y, b, w, h, lx, ly, c, r, i, e, am] => do
      return k (← asmSigned x) (← asmSigned y) (← asmUnsigned b) (← asmUnsigned w) (← asmUnsigned h)
        (← asmSigned lx) (← asmSigned ly) (← asmWord c) (← asmUnsigned r) (← asmEnableWord i e)
        (← asmAmbientWord am)
  | _ => none

/-- The command of a mnemonic and its source operands. `cfg` is the state whose configuration the two frame
pseudo-instructions need (rule R94). -/
def assembleInstr (cfg : State) (mnemonic : List Char) (ops : List AsmOperand) : Option Instr :=
  match String.ofList mnemonic with
  | "NOP" => if ops = [] then some .nop else none
  | "INIT" =>
      match ops with
      | [f, w, h, bi, bf, bo] => do
          return .init (← asmUnsigned f) (← asmUnsigned w) (← asmUnsigned h) (← asmUnsigned bi)
            (← asmUnsigned bf) (← asmUnsigned bo)
      | _ => none
  | "SIGNAL" => asmOne .signal ops
  | "SIGNAL.IRQ" => asmOne .signalIrq ops
  | "PAL_ADD" => asmOne .palAdd ops
  | "PAL_FIND" => asmOne .palFind ops
  | "CLEAR" => asmOne .clear ops
  | "CLEAR.I" => asmOne .clearI ops
  | "PIXEL" => asmPoint .pixel ops
  | "PIXEL.B" => asmPoint .pixelB ops
  | "PIXEL.I" => asmPoint .pixelI ops
  | "LINE" => asmFour .line ops
  | "LINE.B" => asmFour .lineB ops
  | "LINE.I" => asmFour .lineI ops
  | "LINEP" => asmFour .linep ops
  | "LINEP.B" => asmFour .linepB ops
  | "LINEP.I" => asmFour .linepI ops
  | "RECT" => asmFour .rect ops
  | "RECT.B" => asmFour .rectB ops
  | "RECT.I" => asmFour .rectI ops
  | "FILL" => asmFour .fill ops
  | "FILL.B" => asmFour .fillB ops
  | "FILL.I" => asmFour .fillI ops
  | "CONVERT" =>
      match ops with
      | [d, s, n] => do return .convert (← asmUnsigned d) (← asmUnsigned s) (← asmUnsigned n)
      | _ => none
  | "UPSCALE" =>
      match ops with
      | [d, s, w, h, f] => do
          return .upscale (← asmUnsigned d) (← asmUnsigned s) (← asmUnsigned w) (← asmUnsigned h)
            (← asmUnsigned f)
      | _ => none
  | "BLIT" => asmBlit .blit ops
  | "BLIT.B" => asmBlit .blitB ops
  | "LIGHT" => asmLight .light ops
  | "LIGHT.B" => asmLight .lightB ops
  | "CONVERT.FRAME" => if ops = [] then some (convertFrame cfg) else none
  | "UPSCALE.FRAME" => if ops = [] then some (upscaleFrame cfg) else none
  | "SETPIX" => asmPoint setPix ops
  | "BLENDPIX" => asmPoint blendPix ops
  | _ => none

/-! ### Source lines -/

/-- The text collected so far, as a token before `rest`. -/
def asmFlush (acc : List Char) (rest : List AsmToken) : List AsmToken :=
  if acc = [] then rest else .text acc.reverse :: rest

/-- The tokens of a line; a comment begins with `;`. -/
def asmTokens : List Char → List Char → List AsmToken
  | [], acc => asmFlush acc []
  | c :: cs, acc =>
      if c = ';' then asmFlush acc []
      else if c = ' ' ∨ c = '\t' then asmFlush acc (asmTokens cs [])
      else if c = ',' then asmFlush acc (.comma :: asmTokens cs [])
      else if c = '(' then asmFlush acc (.lparen :: asmTokens cs [])
      else if c = ')' then asmFlush acc (.rparen :: asmTokens cs [])
      else asmTokens cs (c :: acc)

/-- The value of a digit in a base up to 16. -/
def asmDigit (base : Nat) (c : Char) : Option Nat :=
  let n := c.toNat
  let v :=
    if 48 ≤ n ∧ n ≤ 57 then n - 48
    else if 97 ≤ n ∧ n ≤ 102 then n - 87
    else if 65 ≤ n ∧ n ≤ 70 then n - 55
    else 16
  if v < base then some v else none

/-- The value of a run of digits after the value `acc`. -/
def asmDigits (base : Nat) : List Char → Nat → Option Nat
  | [], acc => some acc
  | c :: cs, acc =>
      match asmDigit base c with
      | some v => asmDigits base cs (acc * base + v)
      | none => none

/-- A natural number, decimal or `0x` hexadecimal. -/
def asmNat : List Char → Option Nat
  | [] => none
  | ['0', 'x'] => none
  | '0' :: 'x' :: cs => asmDigits 16 cs 0
  | cs => asmDigits 10 cs 0

/-- An integer: a decimal one may be negative. -/
def asmInt : List Char → Option Int
  | '-' :: cs => if cs = [] then none else (asmDigits 10 cs 0).map fun n => -(n : Int)
  | cs => (asmNat cs).map fun n => (n : Int)

/-- The operands of a token list, separated by commas. -/
def asmOperands : List AsmToken → Option (List AsmOperand)
  | [] => some []
  | [.text cs] => do return [.int (← asmInt cs)]
  | .text cs :: .comma :: rest => do
      let v ← asmInt cs
      let more ← asmOperands rest
      if more = [] then none else return .int v :: more
  | .text cs :: .lparen :: .text r :: .comma :: .text g :: .comma :: .text b :: .comma :: .text a
      :: .rparen :: rest => do
      if cs ≠ ['r', 'g', 'b', 'a'] then none
      let colour := AsmOperand.rgba (← asmInt r) (← asmInt g) (← asmInt b) (← asmInt a)
      match rest with
      | [] => return [colour]
      | .comma :: rest' =>
          let more ← asmOperands rest'
          if more = [] then none else return colour :: more
      | _ => none
  | _ => none

/-- The words of one source line: none where the line is refused, no words for a blank or comment line (rule R93). -/
def assembleLine (cfg : State) (line : List Char) : Option (List Word) :=
  match asmTokens line [] with
  | [] => some []
  | .text m :: rest => do
      let ops ← asmOperands rest
      let i ← assembleInstr cfg m ops
      return encode i
  | _ => none

end Sys2Proof.Machine
end

