-- ==== Sys2Proof/Safety.lean ====
section
/-! DEFINITION. What the claims speak of: the pixels of the buffers (rule R68), a legal configuration (rules R50, R182), the
invariant of every state a run reaches, a run that has ended (rule R245), and the two ways a command ends. -/

namespace Sys2Proof.Machine

/-! ### Pixels (rule R68) -/

/-- Pixel (x, y) of the internal framebuffer. -/
def fbPixel (s : State) (x y : Nat) : Word :=
  readWord s.mem (wordGridAddr s.cfgFbBase.toNat s.cfgWidth.toNat x y)

/-- Pixel (x, y) of the index buffer. -/
def idxPixel (s : State) (x y : Nat) : Byte :=
  readByte s.mem (byteGridAddr s.cfgIdxBase.toNat s.cfgWidth.toNat x y)

/-- Pixel (x, y) of the output framebuffer, which is W·F wide. -/
def outPixel (s : State) (x y : Nat) : Word :=
  readWord s.mem (wordGridAddr s.cfgOutBase.toNat (s.cfgWidth.toNat * s.cfgFactor.toNat) x y)

/-- Bytes of the index buffer. -/
def idxBytes (s : State) : Nat := s.cfgWidth.toNat * s.cfgHeight.toNat

/-- Bytes of the internal framebuffer. -/
def fbBytes (s : State) : Nat := 4 * (s.cfgWidth.toNat * s.cfgHeight.toNat)

/-- Bytes of the output framebuffer. -/
def outBytes (s : State) : Nat :=
  4 * (s.cfgWidth.toNat * s.cfgHeight.toNat * (s.cfgFactor.toNat * s.cfgFactor.toNat))

/-- Every byte outside `[b, b + n)` reads the same in both memories. -/
def SameOutside (b n : Nat) (m m' : Memory) : Prop :=
  ∀ a, a < b ∨ b + n ≤ a → readByte m' a = readByte m a

/-! ### Legal configurations -/

/-- What INIT checked of a configuration that is valid (rules R50, R66, R67, R182). -/
structure ConfigOk (s : State) : Prop where
  factor : s.cfgFactor.toNat = 1 ∨ s.cfgFactor.toNat = 2 ∨ s.cfgFactor.toNat = 4 ∨ s.cfgFactor.toNat = 8
  width_min : s.params.minDim ≤ s.cfgWidth.toNat
  height_min : s.params.minDim ≤ s.cfgHeight.toNat
  width_mul4 : s.cfgWidth.toNat % 4 = 0
  height_mul4 : s.cfgHeight.toNat % 4 = 0
  idx_aligned : s.cfgIdxBase.toNat % 4 = 0
  fb_aligned : s.cfgFbBase.toNat % 4 = 0
  out_aligned : s.cfgOutBase.toNat % 4 = 0
  idx_inside : s.cfgIdxBase.toNat + idxBytes s ≤ s.params.pmemSize
  fb_inside : s.cfgFbBase.toNat + fbBytes s ≤ s.params.pmemSize
  out_inside : s.cfgOutBase.toNat + outBytes s ≤ s.params.pmemSize
  idx_fb : regionsOverlap s.cfgIdxBase.toNat (idxBytes s) s.cfgFbBase.toNat (fbBytes s) = false
  idx_out : regionsOverlap s.cfgIdxBase.toNat (idxBytes s) s.cfgOutBase.toNat (outBytes s) = false
  fb_out : regionsOverlap s.cfgFbBase.toNat (fbBytes s) s.cfgOutBase.toNat (outBytes s) = false

/-! ### The invariant -/

/-- Pixel memory in canonical form, listing only bytes of PMEM (rule R60). -/
structure MemOk (s : State) : Prop where
  canonical : Memory.wf s.mem = true
  inside : ∀ c ∈ s.mem, c.1 < s.params.pmemSize

/-- What holds of every state a run reaches. -/
structure Inv (s : State) : Prop where
  /-- legal parameters (rule R6) -/
  params : s.params.Legal
  mem : MemOk s
  /-- the FIFO's capacity (rule R45) -/
  fifo : s.fifo.length ≤ s.params.fifoDepth
  /-- `ERR_CODE ≠ 0 ⇔ HALTED = 1` (rule R25) -/
  halted_iff : s.halted = true ↔ s.errCode ≠ 0
  /-- codes 0x0D to 0xFF are never produced (rule R200) -/
  code : s.errCode.toNat ≤ 0x0C
  /-- `PAL_SIZE ≤ 256` (rule R40) -/
  pal_size : s.pal.length ≤ 256
  /-- no two palette entries are equal (rule R41) -/
  pal_nodup : s.pal.Nodup
  /-- a valid configuration is one INIT accepts (rules R50, R182) -/
  config : s.cfgValid = true → ConfigOk s

/-! ### What a command's claim says -/

/-- The command raises the error with this code: exactly the writes of rule R201 and no other. -/
def Raises (i : Instr) (s : State) (code : BitVec 8) : Prop :=
  exec i s = .next { s with
    errCode := code, errHeader := headerWord i, halted := true, irqStatus := s.irqStatus ||| 0b010#3 }

/-- The command completes; every framebuffer pixel (px, py) goes from `old` to `f px py old`, every byte outside the
framebuffer and every register but CMD_COUNT is unchanged. -/
def DrawsFb (i : Instr) (s : State) (f : Nat → Nat → Word → Word) : Prop :=
  ∃ t, exec i s = .next t ∧ t = { s with mem := t.mem, cmdCount := s.cmdCount + 1 } ∧
    (∀ px py, px < s.cfgWidth.toNat → py < s.cfgHeight.toNat → fbPixel t px py = f px py (fbPixel s px py)) ∧
    SameOutside s.cfgFbBase.toNat (fbBytes s) s.mem t.mem

/-- The command completes; every pixel (px, py) of the index buffer goes from `old` to `f px py old`, every byte outside the
index buffer and every register but CMD_COUNT is unchanged. -/
def DrawsIdx (i : Instr) (s : State) (f : Nat → Nat → Byte → Byte) : Prop :=
  ∃ t, exec i s = .next t ∧ t = { s with mem := t.mem, cmdCount := s.cmdCount + 1 } ∧
    (∀ px py, px < s.cfgWidth.toNat → py < s.cfgHeight.toNat → idxPixel t px py = f px py (idxPixel s px py)) ∧
    SameOutside s.cfgIdxBase.toNat (idxBytes s) s.mem t.mem

/-- The command is an INIT. -/
def IsInit (i : Instr) : Prop := ∃ f w h bi bf bo, i = .init f w h bi bf bo

/-- The commands of the NOT_INIT row of rule R200: they need a valid configuration. -/
def needsConfig : Instr → Bool
  | .nop | .init .. | .signal .. | .signalIrq .. | .palAdd .. | .palFind .. | .convert .. | .upscale .. => false
  | .clear .. | .clearI .. | .pixel .. | .pixelB .. | .pixelI .. | .line .. | .lineB .. | .lineI ..
  | .linep .. | .linepB .. | .linepI .. | .rect .. | .rectB .. | .rectI .. | .fill .. | .fillB .. | .fillI ..
  | .blit .. | .blitB .. | .light .. | .lightB .. => true

/-- The index value of an index-mode command (rules R84, R113). -/
def indexValue : Instr → Option Word
  | .clearI v | .pixelI _ _ v | .lineI _ _ _ _ v | .linepI _ _ _ _ v | .rectI _ _ _ _ v | .fillI _ _ _ _ v => some v
  | .nop | .init .. | .signal .. | .signalIrq .. | .palAdd .. | .palFind .. | .convert .. | .upscale ..
  | .clear .. | .pixel .. | .pixelB .. | .line .. | .lineB .. | .linep .. | .linepB ..
  | .rect .. | .rectB .. | .fill .. | .fillB .. | .blit .. | .blitB .. | .light .. | .lightB .. => none

/-- The mode of a raster primitive that plots pixels, and the pixels it plots, in order (rules R116, R118, R122, R124,
R126). -/
def rasterPixels : Instr → Option (DrawMode × List (Int × Int))
  | .pixel x y _ => some (.replace, [(x, y)])
  | .pixelB x y _ => some (.blend, [(x, y)])
  | .pixelI x y _ => some (.index, [(x, y)])
  | .line a b c d _ => some (.replace, bresenhamPixels a b c d)
  | .lineB a b c d _ => some (.blend, bresenhamPixels a b c d)
  | .lineI a b c d _ => some (.index, bresenhamPixels a b c d)
  | .linep a b c d _ => some (.replace, paramPixels a b c d)
  | .linepB a b c d _ => some (.blend, paramPixels a b c d)
  | .linepI a b c d _ => some (.index, paramPixels a b c d)
  | .rect x y w h _ => some (.replace, outlinePixels x y w h)
  | .rectB x y w h _ => some (.blend, outlinePixels x y w h)
  | .rectI x y w h _ => some (.index, outlinePixels x y w h)
  | .fill x y w h _ => some (.replace, fillPixels x y w h)
  | .fillB x y w h _ => some (.blend, fillPixels x y w h)
  | .fillI x y w h _ => some (.index, fillPixels x y w h)
  | .nop | .init .. | .signal .. | .signalIrq .. | .palAdd .. | .palFind .. | .clear .. | .clearI ..
  | .convert .. | .upscale .. | .blit .. | .blitB .. | .light .. | .lightB .. => none

/-- (px, py) is one of the pixels `[x, x+w) × [y, y+h)` (rules R123, R125, R160). -/
abbrev InRect (x y w h : Int) (px py : Nat) : Prop := x ≤ px ∧ px < x + w ∧ y ≤ py ∧ py < y + h

/-- How many of the four boundary lines of a rectangle pass through (px, py), a pixel of the rectangle (rule R123). -/
def outlineCount (x y w h : Int) (px py : Nat) : Nat :=
  (if py = y then 1 else 0) + (if py = y + h - 1 then 1 else 0) + (if px = x then 1 else 0)
    + (if px = x + w - 1 then 1 else 0)

/-- Pixel (c, r) of a sprite `sw` wide at byte address `sb` (rules R68, R160). -/
def spritePixel (s : State) (sb sw c r : Nat) : Word := readWord s.mem (sb + 4 * (r * sw + c))

/-- A sprite region passes the checks of rules R160 and R166: aligned, and empty or inside PMEM and apart from the internal
framebuffer. -/
def SpriteOk (s : State) (sb sw sh : Nat) : Prop :=
  sb % 4 = 0 ∧ (sw * sh = 0 ∨ (sb + 4 * sw * sh ≤ s.params.pmemSize ∧
    (sb + 4 * sw * sh ≤ s.cfgFbBase.toNat ∨ s.cfgFbBase.toNat + fbBytes s ≤ sb)))

/-! ### Turns and ends -/

/-- The next step is the engine's if the engine has one, and leaves the script `ev`: nothing is asked of the ports, or the
script has an engine turn, or a memory access that BUSY = 1 holds (rules R11, R70). -/
def EngineIsNext (s : State) (ev : List PortEvent) : Prop :=
  (s.port = [] ∧ ev = []) ∨ s.port = .engineTurn :: ev ∨
    ∃ a rest, s.port = .access a :: rest ∧ isMemAccess a = true ∧ busy s = true ∧ ev = s.port

/-- A host access is still to come: any access the script still holds, the one in front (issued, and perhaps held by rule
R70) and every later one, not yet issued. A reset input still to come is no access and does not count.
DESIGN CHOICE (note 19): rule R245 says "no host access is pending" and does not say which accesses are. -/
def accessPending (s : State) : Bool :=
  s.port.any fun e => match e with
    | .access _ => true
    | .resetInput | .engineTurn => false

/-- The run has ended (rule R245, with note 19 on what is pending). -/
def runEnded (s : State) : Bool := !busy s && fifoEmpty s && !accessPending s

end Sys2Proof.Machine
end

