-- ==== Sys2Proof/Certificates/Slice0/Obligations.lean ====
section
/-! DEFINITION. The statements for the provers, in the order of the spec's files: state and ports, memory, encoding, palette,
rasteriser, converter, upscaler, sprites and light, control, errors and the whole machine. `Inv s` is the invariant of
Safety.lean, which every step keeps (`EveryStepKeepsInvariant`). -/

open Sys2Proof Sys2Proof.Machine

/-! ### Registers and ports (10_state.md) -/

/-- Rule R22 (with R23, R25 to R32, R40, R50): what a 32-bit read of each mapped offset but STATUS returns (STATUS is
`StatusFieldsReport`); the palette window holds `PAL[i]`, which reads 0 at and beyond PAL_SIZE. A step at a register read,
of any offset and width and while BUSY = 1 too, answers with that value and no bus error, and changes nothing else. -/
def Obligations.RegisterMapReads : Prop :=
  ∀ s : State,
    (∀ (off : Word) (size : AccessSize) (ev : List PortEvent), s.port = .access (.regRead off size) :: ev →
      step s = .next { s with port := ev, portResponse := some ⟨registerRead off size s, false⟩ }) ∧
    registerRead 0x000#32 .word s = 0x4C554D01#32 ∧
    registerRead 0x004#32 .word s = 0 ∧
    registerRead 0x01C#32 .word s = 0 ∧
    (registerRead 0x00C#32 .word s).extractLsb' 0 8 = s.errCode ∧
    (registerRead 0x00C#32 .word s).extractLsb' 8 24 = 0 ∧
    registerRead 0x010#32 .word s = s.errHeader ∧
    (registerRead 0x014#32 .word s).extractLsb' 0 3 = s.irqStatus ∧
    (registerRead 0x014#32 .word s).extractLsb' 3 29 = 0 ∧
    (registerRead 0x018#32 .word s).extractLsb' 0 3 = s.irqEnable ∧
    (registerRead 0x018#32 .word s).extractLsb' 3 29 = 0 ∧
    registerRead 0x020#32 .word s = s.result ∧
    registerRead 0x024#32 .word s = s.signal ∧
    registerRead 0x028#32 .word s = s.cmdCount ∧
    registerRead 0x02C#32 .word s = BitVec.ofNat 32 s.pal.length ∧
    registerRead 0x030#32 .word s = s.cfgFactor ∧
    registerRead 0x034#32 .word s = s.cfgWidth ∧
    registerRead 0x038#32 .word s = s.cfgHeight ∧
    registerRead 0x03C#32 .word s = s.cfgIdxBase ∧
    registerRead 0x040#32 .word s = s.cfgFbBase ∧
    registerRead 0x044#32 .word s = s.cfgOutBase ∧
    registerRead 0x048#32 .word s = BitVec.ofNat 32 s.params.pmemSize ∧
    registerRead 0x04C#32 .word s = BitVec.ofNat 32 s.params.fifoDepth ∧
    registerRead 0x050#32 .word s = BitVec.ofNat 32 s.params.minDim ∧
    (∀ i, i < 256 → registerRead (BitVec.ofNat 32 (0x400 + 4 * i)) .word s =
      if h : i < s.pal.length then s.pal[i] else 0)

/-- Rule R23: reading CTRL returns 0, and one write of it takes effect as SOFT_RESET alone, or as FLUSH and then RESUME; bits
[31:3] are ignored, and RESUME leaves ERR_HEADER. That the answer to the write carries data 0 is the model's choice
(note 8). -/
def Obligations.CtrlWriteTakesEffectInOrder : Prop :=
  ∀ (s : State) (ev : List PortEvent) (v : Word),
    registerRead 0x004#32 .word s = 0 ∧
    (s.port = .access (.regWrite 0x004#32 .word v) :: ev →
      (v.getLsbD 0 = true →
        step s = .next { resetBlock { s with port := ev } with portResponse := some ⟨0, false⟩ }) ∧
      (v.getLsbD 0 = false →
        step s = .next { s with
          port := ev
          portResponse := some ⟨0, false⟩
          fifo := if v.getLsbD 2 then [] else s.fifo
          halted := if v.getLsbD 1 then false else s.halted
          errCode := if v.getLsbD 1 && s.halted then 0 else s.errCode }))

/-- Rule R24: every field of STATUS, and its value after reset. -/
def Obligations.StatusFieldsReport : Prop :=
  (∀ s : State, s.fifo.length ≤ 255 →
    let v := registerRead 0x008#32 .word s
    (v.getLsbD 0 = true ↔
      s.halted = false ∧ ∃ h rest, s.fifo = h :: rest ∧ packetLength h ≤ rest.length + 1) ∧
    v.getLsbD 1 = s.halted ∧
    v.getLsbD 2 = s.cfgValid ∧
    (v.getLsbD 3 = true ↔ s.fifo = []) ∧
    (v.getLsbD 4 = true ↔ s.fifo.length = s.params.fifoDepth) ∧
    v.getLsbD 5 = s.irqStatus.getLsbD 2 ∧
    (∀ k, 6 ≤ k → k < 16 → v.getLsbD k = false) ∧
    (v.extractLsb' 16 8).toNat = s.fifo.length ∧
    (∀ k, 24 ≤ k → v.getLsbD k = false)) ∧
  (∀ (p : Params) (m : Memory), p.Legal → registerRead 0x008#32 .word (State.powerOn p m) = 0x00000008#32)

/-- Rules R27, R28 and R210: a write of IRQ_STATUS clears exactly the bits written with 1, a write of IRQ_ENABLE takes bits
[2:0] alone, and the interrupt line is 1 exactly when some event bit is set and enabled, so that clearing every event or
disabling every event deasserts it. That the answers to the writes carry data 0 is the model's choice (note 8). -/
def Obligations.InterruptRegistersAndLine : Prop :=
  ∀ (s : State) (ev : List PortEvent) (v : Word),
    (s.port = .access (.regWrite 0x014#32 .word v) :: ev →
      ∃ t, step s = .next t ∧
        t = { s with port := ev, portResponse := some ⟨0, false⟩, irqStatus := t.irqStatus } ∧
        (∀ k, k < 3 → t.irqStatus.getLsbD k = (s.irqStatus.getLsbD k && !v.getLsbD k)) ∧
        (v.extractLsb' 0 3 = 0b111#3 → irqLine t = false)) ∧
    (s.port = .access (.regWrite 0x018#32 .word v) :: ev →
      ∃ t, step s = .next t ∧
        t = { s with port := ev, portResponse := some ⟨0, false⟩, irqEnable := t.irqEnable } ∧
        (∀ k, k < 3 → t.irqEnable.getLsbD k = v.getLsbD k) ∧
        (v.extractLsb' 0 3 = 0#3 → irqLine t = false)) ∧
    (irqLine s = true ↔ ∃ k, k < 3 ∧ s.irqStatus.getLsbD k = true ∧ s.irqEnable.getLsbD k = true)

/-- Rule R29: what a write of CMD_FIFO does with room and when full, in every engine state, and that a read of it returns 0 and
has no effect. That the answers to the writes carry data 0 is the model's choice (note 8). -/
def Obligations.FifoWriteAppendsOrOverflows : Prop :=
  ∀ (s : State) (ev : List PortEvent) (w : Word),
    (s.port = .access (.regWrite 0x01C#32 .word w) :: ev →
      (s.fifo.length < s.params.fifoDepth →
        step s = .next { s with port := ev, portResponse := some ⟨0, false⟩, fifo := s.fifo ++ [w] }) ∧
      (s.params.fifoDepth ≤ s.fifo.length →
        step s = .next { s with
          port := ev, portResponse := some ⟨0, true⟩, irqStatus := s.irqStatus ||| 0b100#3 })) ∧
    (s.port = .access (.regRead 0x01C#32 .word) :: ev →
      step s = .next { s with port := ev, portResponse := some ⟨0, false⟩ })

/-- Rule R33: an access that is not a 32-bit access at a multiple of 4, and one at an unmapped offset, completes without error,
reads 0 and writes nothing; a write of a read-only register or of the palette window is ignored. That the answers to the
ignored writes carry data 0 is the model's choice (note 8). -/
def Obligations.IgnoredRegisterAccesses : Prop :=
  ∀ (s : State) (ev : List PortEvent) (off : Word) (size : AccessSize) (v : Word),
    (size ≠ .word ∨ off.toNat % 4 ≠ 0 ∨ (0x054 ≤ off.toNat ∧ off.toNat < 0x400) ∨ 0x800 ≤ off.toNat →
      (s.port = .access (.regRead off size) :: ev →
        step s = .next { s with port := ev, portResponse := some ⟨0, false⟩ }) ∧
      (s.port = .access (.regWrite off size v) :: ev →
        step s = .next { s with port := ev, portResponse := some ⟨0, false⟩ })) ∧
    (off.toNat ≠ 0x004 → off.toNat ≠ 0x014 → off.toNat ≠ 0x018 → off.toNat ≠ 0x01C →
      s.port = .access (.regWrite off size v) :: ev →
        step s = .next { s with port := ev, portResponse := some ⟨0, false⟩ })

/-- Rules R46 and R47 (with R81): a halted engine, and one whose FIFO does not hold a whole packet, takes no step, neither
with nothing asked of the ports nor at an engine turn of the script, which is used up. That the model's step then leaves
the state as it is otherwise, is the model's choice (note 5). -/
def Obligations.HaltedOrIncompleteEngineWaits : Prop :=
  ∀ (s : State) (ev : List PortEvent), (s.port = [] ∧ ev = []) ∨ s.port = .engineTurn :: ev →
    (s.halted = true → step s = .next { s with port := ev }) ∧
    (s.fifo = [] → step s = .next { s with port := ev }) ∧
    (∀ h rest, s.fifo = h :: rest → rest.length + 1 < packetLength h → step s = .next { s with port := ev })

/-! ### Memory (20_memory.md) -/

/-- Rules R62, R63, R64 and R69, while BUSY = 0: accepted accesses of the memory port, little-endian, and the bus errors, which
read 0 and write nothing. That the answers to the writes carry data 0, and that a byte read answers with its byte in bits
[7:0] and 0 in bits [31:8], is the model's choice (note 8). -/
def Obligations.MemoryPortAccesses : Prop :=
  ∀ (s : State) (ev : List PortEvent) (a : Word) (b : Byte) (v : Word), Inv s → busy s = false →
    (s.port = .access (.memReadByte a) :: ev →
      (a.toNat < s.params.pmemSize → ∃ d : Word,
        step s = .next { s with port := ev, portResponse := some ⟨d, false⟩ } ∧
        d.extractLsb' 0 8 = readByte s.mem a.toNat ∧ d.extractLsb' 8 24 = 0) ∧
      (s.params.pmemSize ≤ a.toNat → step s = .next { s with port := ev, portResponse := some ⟨0, true⟩ })) ∧
    (s.port = .access (.memReadWord a) :: ev →
      (a.toNat % 4 = 0 → a.toNat + 4 ≤ s.params.pmemSize → ∃ d : Word,
        step s = .next { s with port := ev, portResponse := some ⟨d, false⟩ } ∧
        ∀ k, k < 4 → d.extractLsb' (8 * k) 8 = readByte s.mem (a.toNat + k)) ∧
      (a.toNat % 4 ≠ 0 ∨ s.params.pmemSize < a.toNat + 4 →
        step s = .next { s with port := ev, portResponse := some ⟨0, true⟩ })) ∧
    (s.port = .access (.memWriteByte a b) :: ev →
      (a.toNat < s.params.pmemSize → ∃ t,
        step s = .next t ∧ t = { s with port := ev, portResponse := some ⟨0, false⟩, mem := t.mem } ∧
        readByte t.mem a.toNat = b ∧ SameOutside a.toNat 1 s.mem t.mem) ∧
      (s.params.pmemSize ≤ a.toNat → step s = .next { s with port := ev, portResponse := some ⟨0, true⟩ })) ∧
    (s.port = .access (.memWriteWord a v) :: ev →
      (a.toNat % 4 = 0 → a.toNat + 4 ≤ s.params.pmemSize → ∃ t,
        step s = .next t ∧ t = { s with port := ev, portResponse := some ⟨0, false⟩, mem := t.mem } ∧
        (∀ k, k < 4 → readByte t.mem (a.toNat + k) = v.extractLsb' (8 * k) 8) ∧
        SameOutside a.toNat 4 s.mem t.mem) ∧
      (a.toNat % 4 ≠ 0 ∨ s.params.pmemSize < a.toNat + 4 →
        step s = .next { s with port := ev, portResponse := some ⟨0, true⟩ }))

/-- Rule R70: a memory access met while BUSY = 1 is held: the engine steps as in a turn of its own, the access and everything
behind it stay, nothing is answered, and the FIFO gets shorter, so that the hold ends. The access completes once
BUSY = 0. -/
def Obligations.MemoryAccessIsHeldWhileBusy : Prop :=
  ∀ (s : State) (a : HostAccess) (ev : List PortEvent), s.port = .access a :: ev → isMemAccess a = true →
    (busy s = true →
      step s = step { s with port := .engineTurn :: s.port } ∧
      ∀ t, step s = .next t →
        t.port = s.port ∧ t.portResponse = s.portResponse ∧ t.fifo.length < s.fifo.length) ∧
    (busy s = false → ∃ t, step s = .next t ∧ t.port = ev ∧ t.portResponse.isSome = true)

/-! ### Encoding (30_encoding.md) -/

/-- Rule R81 (with R10): when the FIFO begins with the packet of a well-formed command and the engine is not halted, the engine's
step removes the packet and is `exec` of the command; so too at an engine turn of the script, and in place of a memory
access that is held. -/
def Obligations.StepRunsDecodedInstruction : Prop :=
  ∀ (s : State) (i : Instr) (rest : List Word) (a : HostAccess) (ev : List PortEvent),
    i.wellFormed = true → s.halted = false → s.fifo = encode i ++ rest →
      (s.port = [] → step s = exec i { s with fifo := rest }) ∧
      (s.port = .engineTurn :: ev → step s = exec i { s with fifo := rest, port := ev }) ∧
      (s.port = .access a :: ev → isMemAccess a = true → step s = exec i { s with fifo := rest })

/-- Rules R88 and R89 (with R87, R92, R201, R202): what a bad header raises, and the words it consumes, with nothing asked of
the ports, at an engine turn of the script, and in place of a memory access that is held. -/
def Obligations.MalformedHeaderRaisesItsError : Prop :=
  ∀ (s : State) (h : Word) (rest : List Word) (ev : List PortEvent), EngineIsNext s ev →
    s.halted = false → s.fifo = h :: rest → packetLength h ≤ rest.length + 1 →
      (opcodeLength (headerOpcode h) = none →
        step s = .next { s with
          port := ev, fifo := rest, errCode := 0x05, errHeader := h, halted := true
          irqStatus := s.irqStatus ||| 0b010#3 }) ∧
      (opcodeLength (headerOpcode h) ≠ none → headerReserved h ≠ 0 →
        step s = .next { s with
          port := ev, fifo := rest.drop (packetLength h - 1), errCode := 0x06, errHeader := h, halted := true
          irqStatus := s.irqStatus ||| 0b010#3 }) ∧
      (opcodeLength (headerOpcode h) ≠ none → headerReserved h = 0 → (∀ i : Instr, headerWord i ≠ h) →
        step s = .next { s with
          port := ev, fifo := rest.drop (packetLength h - 1), errCode := 0x07, errHeader := h, halted := true
          irqStatus := s.irqStatus ||| 0b010#3 })

/-- Decode and encode agree (rules R80, R84, R86, R92): decoding the packet of a well-formed command gives the command back,
with every operand, and the packet has the length its header gives. -/
def Obligations.DecodeOfEncodeIsIdentity : Prop :=
  ∀ i : Instr, i.wellFormed = true →
    decodePacket (headerWord i) (operandWords i) = .instr i ∧ (encode i).length = packetLength (headerWord i)

/-- The other direction (rules R82, R86, R92): words that decode to a command are that command's packet, and the command is
well formed; so no bit of a packet is dropped and no two packets decode alike. -/
def Obligations.EncodeOfDecodeIsIdentity : Prop :=
  ∀ (h : Word) (ops : List Word) (i : Instr), ops.length + 1 = packetLength h → decodePacket h ops = .instr i →
    i.wellFormed = true ∧ encode i = h :: ops

/-- Packets of 95_test_vectors.md, word by word, decode to the commands they stand for, at least one of each family. -/
def Obligations.VectorPacketsDecode : Prop :=
  decodePacket 0x00000000#32 [] = .instr .nop ∧
  decodePacket 0x00000001#32 [0x8#32, 0x64#32, 0x64#32, 0x0#32, 0x2710#32, 0xC350#32] =
    .instr (.init 8 100 100 0 0x2710 0xC350) ∧
  decodePacket 0x00000102#32 [0x7#32] = .instr (.signalIrq 7#32) ∧
  decodePacket 0x00000003#32 [0xFF000000#32] = .instr (.palAdd 0xFF000000#32) ∧
  decodePacket 0x00000210#32 [0x00000105#32] = .instr (.clearI 0x105#32) ∧
  decodePacket 0x00000011#32 [0xFFFFFFFF#32, 0x0#32, 0x09090909#32] = .instr (.pixel (-1) 0 0x09090909#32) ∧
  decodePacket 0x00000012#32 [0xFFFFFFFE#32, 0x1#32, 0x2#32, 0x1#32, 0xFFFF0000#32] =
    .instr (.line (-2) 1 2 1 0xFFFF0000#32) ∧
  decodePacket 0x00000115#32 [0x5#32, 0x5#32, 0xA#32, 0xA#32, 0x800000FF#32] =
    .instr (.fillB 5 5 10 10 0x800000FF#32) ∧
  decodePacket 0x00000020#32 [0x2000#32, 0x1000#32, 0x4#32] = .instr (.convert 0x2000 0x1000 4) ∧
  decodePacket 0x00000021#32 [0xC350#32, 0x2710#32, 0x64#32, 0x64#32, 0x8#32] =
    .instr (.upscale 0xC350 0x2710 100 100 8) ∧
  decodePacket 0x00000130#32 [0x0#32, 0x0#32, 0x200#32, 0x2#32, 0x1#32] = .instr (.blitB 0 0 0x200 2 1) ∧
  decodePacket 0x00000031#32 [0x3#32, 0x0#32, 0x1000#32, 0x1#32, 0x1#32, 0x0#32, 0x0#32, 0x00FFFFFF#32, 0x3#32,
      0x00010100#32, 0x80#32] =
    .instr (.light 3 0 0x1000 1 1 0 0 0x00FFFFFF#32 3 0x00010100#32 0x80#32)

/-! ### Palette (40_palette.md) -/

/-- Rule R101: PAL_ADD of a colour that is present, of a new one with room, and of a new one on a full palette. -/
def Obligations.PalAddResult : Prop :=
  ∀ (s : State) (c : Word),
    (∀ (j : Nat) (hj : j < s.pal.length), s.pal.Nodup → s.pal[j] = c →
      exec (.palAdd c) s = .next { s with result := BitVec.ofNat 32 j, cmdCount := s.cmdCount + 1 }) ∧
    (c ∉ s.pal → s.pal.length < 256 →
      exec (.palAdd c) s = .next { s with
        pal := s.pal ++ [c], result := BitVec.ofNat 32 s.pal.length, cmdCount := s.cmdCount + 1 }) ∧
    (c ∉ s.pal → 256 ≤ s.pal.length →
      exec (.palAdd c) s = .next { s with result := 0xFFFFFFFF#32, cmdCount := s.cmdCount + 1 })

/-- Rule R102: PAL_FIND of a colour that is present and of one that is not. -/
def Obligations.PalFindResult : Prop :=
  ∀ (s : State) (c : Word),
    (∀ (j : Nat) (hj : j < s.pal.length), s.pal.Nodup → s.pal[j] = c →
      exec (.palFind c) s = .next { s with result := BitVec.ofNat 32 j, cmdCount := s.cmdCount + 1 }) ∧
    (c ∉ s.pal →
      exec (.palFind c) s = .next { s with result := 0xFFFFFFFF#32, cmdCount := s.cmdCount + 1 })

/-- Rule R103: after PAL_ADD, PAL_FIND gives the same RESULT and a second PAL_ADD the same index without growing the palette;
the RESULT is the colour's index when the colour was present or there was room, and 0xFFFFFFFF both times otherwise. -/
def Obligations.PalAddThenFindAgree : Prop :=
  ∀ (s : State) (c : Word), s.pal.length ≤ 256 → ∃ t u w,
    exec (.palAdd c) s = .next t ∧ exec (.palFind c) t = .next u ∧ exec (.palAdd c) t = .next w ∧
    u.result = t.result ∧ w.result = t.result ∧ w.pal = t.pal ∧
    (c ∈ s.pal ∨ s.pal.length < 256 → t.pal[t.result.toNat]? = some c) ∧
    (c ∉ s.pal → s.pal.length = 256 → t.result = 0xFFFFFFFF#32 ∧ t.pal = s.pal)

/-! ### Compositing (41_raster.md) -/

/-- Rule R110: each channel of `Blend(src, dst)` is the rounded formula, and none overflows its 8 bits. -/
def Obligations.BlendIsRoundedSourceOver : Prop :=
  ∀ src dst : Word,
    let sa := (alphaOf src).toNat
    (redOf (blend src dst)).toNat = ((redOf src).toNat * sa + (redOf dst).toNat * (255 - sa) + 127) / 255 ∧
    (greenOf (blend src dst)).toNat = ((greenOf src).toNat * sa + (greenOf dst).toNat * (255 - sa) + 127) / 255 ∧
    (blueOf (blend src dst)).toNat = ((blueOf src).toNat * sa + (blueOf dst).toNat * (255 - sa) + 127) / 255 ∧
    (alphaOf (blend src dst)).toNat = sa + ((alphaOf dst).toNat * (255 - sa) + 127) / 255

/-- Rule R111: a source alpha of 0 leaves the destination, and one of 255 overwrites it. -/
def Obligations.BlendFastPaths : Prop :=
  ∀ src dst : Word,
    (alphaOf src = 0 → blend src dst = dst) ∧
    (alphaOf src = 255 → blend src dst = src ∧ alphaOf (blend src dst) = 255)

/-! ### Pixels and clears (41_raster.md) -/

/-- Rule R116 (with R112, R113): PIXEL, PIXEL.B and PIXEL.I change the one pixel (x, y) of their target, and nothing when it is
clipped. -/
def Obligations.PixelCommandsWriteOnePixel : Prop :=
  ∀ (s : State) (x y : Int) (v : Word), Inv s → s.cfgValid = true →
    DrawsFb (.pixel x y v) s (fun px py old => if x = px ∧ y = py then v else old) ∧
    DrawsFb (.pixelB x y v) s (fun px py old => if x = px ∧ y = py then blend v old else old) ∧
    (indexReserved v = 0 →
      DrawsIdx (.pixelI x y v) s (fun px py old => if x = px ∧ y = py then indexOf v else old))

/-- Rule R114 (with R113): CLEAR sets every framebuffer pixel and CLEAR.I every index byte; each leaves every other byte. -/
def Obligations.ClearCommandsFillTheirTarget : Prop :=
  ∀ (s : State) (v : Word), Inv s → s.cfgValid = true →
    DrawsFb (.clear v) s (fun _ _ _ => v) ∧
    (indexReserved v = 0 → DrawsIdx (.clearI v) s (fun _ _ _ => indexOf v))

/-! ### Lines (41_raster.md) -/

/-- Rule R117: the Bresenham list has max(dx, dy) + 1 entries, begins and ends at the endpoints, repeats no pixel, and each
step moves x and y by at most 1, toward the far endpoint, and moves at least one of them. The strict comparisons of the
rule decide the ties: on each axis the distance of entry k from the first endpoint is the integer nearest to
k·delta/max(dx, dy), the smaller one on a tie; on the major axis that is k. -/
def Obligations.BresenhamPixelsWalkEndToEnd : Prop :=
  ∀ x0 y0 x1 y1 : Int,
    let l := bresenhamPixels x0 y0 x1 y1
    let dx := (x1 - x0).natAbs
    let dy := (y1 - y0).natAbs
    let major := max dx dy
    l.length = major + 1 ∧
    l.head? = some (x0, y0) ∧ l.getLast? = some (x1, y1) ∧ l.Nodup ∧
    (∀ (k : Nat) (hk : k < l.length), 0 < major →
      (2 * k * dx ≤ 2 * major * (l[k].1 - x0).natAbs + major ∧
        2 * major * (l[k].1 - x0).natAbs < 2 * k * dx + major) ∧
      (2 * k * dy ≤ 2 * major * (l[k].2 - y0).natAbs + major ∧
        2 * major * (l[k].2 - y0).natAbs < 2 * k * dy + major)) ∧
    ∀ (k : Nat) (hk : k + 1 < l.length),
      l[k + 1] ≠ l[k] ∧
      (l[k + 1].1 - l[k].1).natAbs ≤ 1 ∧ (l[k + 1].2 - l[k].2).natAbs ≤ 1 ∧
      (x0 ≤ x1 → l[k].1 ≤ l[k + 1].1) ∧ (x1 ≤ x0 → l[k + 1].1 ≤ l[k].1) ∧
      (y0 ≤ y1 → l[k].2 ≤ l[k + 1].2) ∧ (y1 ≤ y0 → l[k + 1].2 ≤ l[k].2)

/-- Rules R120 and R121: the parametric list has steps + 1 entries, begins and ends at the endpoints and repeats no pixel; the
entry at t is the nearest integer point to P(t), ties toward +∞; on the major axis each step moves by exactly 1. -/
def Obligations.ParamPixelsSampleTheLine : Prop :=
  ∀ x0 y0 x1 y1 : Int,
    let l := paramPixels x0 y0 x1 y1
    let steps := max (x1 - x0).natAbs (y1 - y0).natAbs
    l.length = steps + 1 ∧ l.head? = some (x0, y0) ∧ l.getLast? = some (x1, y1) ∧ l.Nodup ∧
    (∀ (t : Nat) (ht : t < l.length), 0 < steps →
      (2 * steps * (l[t].1 - x0) ≤ 2 * t * (x1 - x0) + steps ∧
        2 * t * (x1 - x0) + steps < 2 * steps * (l[t].1 - x0) + 2 * steps) ∧
      (2 * steps * (l[t].2 - y0) ≤ 2 * t * (y1 - y0) + steps ∧
        2 * t * (y1 - y0) + steps < 2 * steps * (l[t].2 - y0) + 2 * steps)) ∧
    (∀ (t : Nat) (ht : t + 1 < l.length),
      (l[t + 1].1 - l[t].1).natAbs ≤ 1 ∧ (l[t + 1].2 - l[t].2).natAbs ≤ 1 ∧
      ((x1 - x0).natAbs = steps → (l[t + 1].1 - l[t].1).natAbs = 1) ∧
      ((y1 - y0).natAbs = steps → (l[t + 1].2 - l[t].2).natAbs = 1))

/-- Rule R118 (with R112, R113), LINE and LINE.I: the on-screen pixels of the Bresenham list get the value; all others keep
theirs. -/
def Obligations.LineWritesBresenhamPixels : Prop :=
  ∀ (s : State) (x0 y0 x1 y1 : Int) (v : Word), Inv s → s.cfgValid = true →
    DrawsFb (.line x0 y0 x1 y1 v) s
      (fun px py old => if ((px : Int), (py : Int)) ∈ bresenhamPixels x0 y0 x1 y1 then v else old) ∧
    (indexReserved v = 0 →
      DrawsIdx (.lineI x0 y0 x1 y1 v) s
        (fun px py old => if ((px : Int), (py : Int)) ∈ bresenhamPixels x0 y0 x1 y1 then indexOf v else old))

/-- Rule R118, LINE.B: each on-screen pixel of the Bresenham list is blended exactly once. -/
def Obligations.LineBlendsEachPixelOnce : Prop :=
  ∀ (s : State) (x0 y0 x1 y1 : Int) (v : Word), Inv s → s.cfgValid = true →
    DrawsFb (.lineB x0 y0 x1 y1 v) s
      (fun px py old => if ((px : Int), (py : Int)) ∈ bresenhamPixels x0 y0 x1 y1 then blend v old else old)

/-- Rule R122 (with R112, R113), LINEP and LINEP.I: the on-screen pixels of the parametric list get the value; all others keep
theirs. -/
def Obligations.LinepWritesParamPixels : Prop :=
  ∀ (s : State) (x0 y0 x1 y1 : Int) (v : Word), Inv s → s.cfgValid = true →
    DrawsFb (.linep x0 y0 x1 y1 v) s
      (fun px py old => if ((px : Int), (py : Int)) ∈ paramPixels x0 y0 x1 y1 then v else old) ∧
    (indexReserved v = 0 →
      DrawsIdx (.linepI x0 y0 x1 y1 v) s
        (fun px py old => if ((px : Int), (py : Int)) ∈ paramPixels x0 y0 x1 y1 then indexOf v else old))

/-- Rule R122, LINEP.B: each on-screen pixel of the parametric list is blended exactly once. -/
def Obligations.LinepBlendsEachPixelOnce : Prop :=
  ∀ (s : State) (x0 y0 x1 y1 : Int) (v : Word), Inv s → s.cfgValid = true →
    DrawsFb (.linepB x0 y0 x1 y1 v) s
      (fun px py old => if ((px : Int), (py : Int)) ∈ paramPixels x0 y0 x1 y1 then blend v old else old)

/-! ### Rectangles (41_raster.md) -/

/-- Rules R123 and R124, RECT and RECT.I: exactly the on-screen boundary pixels get the value; w ≤ 0 or h ≤ 0 draws nothing. -/
def Obligations.RectWritesTheBoundary : Prop :=
  ∀ (s : State) (x y w h : Int) (v : Word), Inv s → s.cfgValid = true →
    DrawsFb (.rect x y w h v) s
      (fun px py old => if InRect x y w h px py ∧ 0 < outlineCount x y w h px py then v else old) ∧
    (indexReserved v = 0 →
      DrawsIdx (.rectI x y w h v) s
        (fun px py old => if InRect x y w h px py ∧ 0 < outlineCount x y w h px py then indexOf v else old))

/-- Rule R124, RECT.B: each pixel of the rectangle is blended once for each of the four boundary lines through it: a corner
twice, and up to four times when w or h is 1. -/
def Obligations.RectBlendsOncePerBoundaryLine : Prop :=
  ∀ (s : State) (x y w h : Int) (v : Word), Inv s → s.cfgValid = true →
    DrawsFb (.rectB x y w h v) s
      (fun px py old => if InRect x y w h px py then (blend v)^[outlineCount x y w h px py] old else old)

/-- Rules R125 and R126, FILL and FILL.I: exactly the on-screen pixels of the rectangle get the value. -/
def Obligations.FillWritesTheRectangle : Prop :=
  ∀ (s : State) (x y w h : Int) (v : Word), Inv s → s.cfgValid = true →
    DrawsFb (.fill x y w h v) s (fun px py old => if InRect x y w h px py then v else old) ∧
    (indexReserved v = 0 →
      DrawsIdx (.fillI x y w h v) s (fun px py old => if InRect x y w h px py then indexOf v else old))

/-- Rules R125 and R126, FILL.B: each on-screen pixel of the rectangle is blended exactly once. -/
def Obligations.FillBlendsEachPixelOnce : Prop :=
  ∀ (s : State) (x y w h : Int) (v : Word), Inv s → s.cfgValid = true →
    DrawsFb (.fillB x y w h v) s (fun px py old => if InRect x y w h px py then blend v old else old)

/-- Rule R127: a raster command, whatever it answers with, writes no byte outside its mode's target buffer, and one that plots
only pixels outside the canvas changes no byte at all. -/
def Obligations.RasterWritesOnlyItsTarget : Prop :=
  ∀ (i : Instr) (s t : State), Memory.wf s.mem = true → exec i s = .next t →
    (∀ mode pixels, rasterPixels i = some (mode, pixels) →
      SameOutside (targetRegion mode (canvas s)).1 (targetRegion mode (canvas s)).2 s.mem t.mem ∧
      ((∀ p ∈ pixels, onCanvas (canvas s) p.1 p.2 = false) → t.mem = s.mem)) ∧
    (∀ v, i = .clear v → SameOutside s.cfgFbBase.toNat (fbBytes s) s.mem t.mem) ∧
    (∀ v, i = .clearI v → SameOutside s.cfgIdxBase.toNat (idxBytes s) s.mem t.mem)

/-- Rules R113, R165, R166 and R200, R202: a command that needs a configuration raises NOT_INIT without one, before every other
check; with one, an index mode raises BAD_OPERAND on an index value above 255, and LIGHT on reserved bits. -/
def Obligations.DrawsCheckConfigThenOperands : Prop :=
  ∀ (i : Instr) (s : State),
    (needsConfig i = true → s.cfgValid = false → Raises i s 0x08) ∧
    (∀ v, indexValue i = some v → s.cfgValid = true → indexReserved v ≠ 0 → Raises i s 0x0C) ∧
    (∀ x y sb sw sh lx ly c r ie am,
      i = .light x y sb sw sh lx ly c r ie am ∨ i = .lightB x y sb sw sh lx ly c r ie am →
      s.cfgValid = true → enableReserved ie ≠ 0 ∨ ambientReserved am ≠ 0 → Raises i s 0x0C)

/-! ### Converter (42_convert.md) -/

/-- Rule R140: CONVERT with an aligned destination and regions that are empty, or inside PMEM and disjoint, writes the palette
entry of every source byte and nothing else. That an empty region passes wherever it lies is the model's reading
(note 10, of rules R67, R140 and R205). -/
def Obligations.ConvertGathersThroughPalette : Prop :=
  ∀ (s : State) (dst src n : Nat), Inv s → dst % 4 = 0 →
    (n = 0 ∨ (src + n ≤ s.params.pmemSize ∧ dst + 4 * n ≤ s.params.pmemSize ∧
      (dst + 4 * n ≤ src ∨ src + n ≤ dst))) →
    ∃ t, exec (.convert dst src n) s = .next t ∧
      t = { s with mem := t.mem, cmdCount := s.cmdCount + 1 } ∧
      (∀ i, i < n → readWord t.mem (dst + 4 * i) = s.pal.getD (readByte s.mem (src + i)).toNat 0) ∧
      SameOutside dst (4 * n) s.mem t.mem

/-- Rules R140 and R202: the errors of CONVERT, each before the next. -/
def Obligations.ConvertErrorsInOrder : Prop :=
  ∀ (s : State) (dst src n : Nat),
    (dst % 4 ≠ 0 → Raises (.convert dst src n) s 0x0A) ∧
    (dst % 4 = 0 → 0 < n → s.params.pmemSize < src + n ∨ s.params.pmemSize < dst + 4 * n →
      Raises (.convert dst src n) s 0x09) ∧
    (dst % 4 = 0 → 0 < n → src + n ≤ s.params.pmemSize → dst + 4 * n ≤ s.params.pmemSize →
      src < dst + 4 * n → dst < src + n → Raises (.convert dst src n) s 0x0B)

/-- Rule R142: under a valid configuration, CONVERT.FRAME never raises an error; every framebuffer pixel becomes the palette entry
of its index byte. -/
def Obligations.ConvertFrameNeverRaises : Prop :=
  ∀ s : State, Inv s → s.cfgValid = true →
    DrawsFb (convertFrame s) s (fun px py _ => s.pal.getD (idxPixel s px py).toNat 0)

/-! ### Upscaler (43_upscale.md) -/

/-- Rule R150: UPSCALE with a legal factor, aligned bases and regions that are empty, or inside PMEM and disjoint, makes the
destination pixel (X, Y) the source pixel (X div f, Y div f) and writes nothing else. That an empty image passes wherever
its bases lie is the model's reading (note 10). -/
def Obligations.UpscaleReplicatesPixels : Prop :=
  ∀ (s : State) (dst src w h f : Nat), Inv s → (f = 1 ∨ f = 2 ∨ f = 4 ∨ f = 8) → dst % 4 = 0 → src % 4 = 0 →
    (w * h = 0 ∨ (src + 4 * w * h ≤ s.params.pmemSize ∧ dst + 4 * w * h * f * f ≤ s.params.pmemSize ∧
      (dst + 4 * w * h * f * f ≤ src ∨ src + 4 * w * h ≤ dst))) →
    ∃ t, exec (.upscale dst src w h f) s = .next t ∧
      t = { s with mem := t.mem, cmdCount := s.cmdCount + 1 } ∧
      (∀ X Y, X < w * f → Y < h * f →
        readWord t.mem (dst + 4 * (Y * (w * f) + X)) = readWord s.mem (src + 4 * (Y / f * w + X / f))) ∧
      SameOutside dst (4 * w * h * f * f) s.mem t.mem

/-- Rules R150 and R202: the errors of UPSCALE, each before the next. -/
def Obligations.UpscaleErrorsInOrder : Prop :=
  ∀ (s : State) (dst src w h f : Nat),
    (¬(f = 1 ∨ f = 2 ∨ f = 4 ∨ f = 8) → Raises (.upscale dst src w h f) s 0x01) ∧
    ((f = 1 ∨ f = 2 ∨ f = 4 ∨ f = 8) → dst % 4 ≠ 0 ∨ src % 4 ≠ 0 → Raises (.upscale dst src w h f) s 0x0A) ∧
    ((f = 1 ∨ f = 2 ∨ f = 4 ∨ f = 8) → dst % 4 = 0 → src % 4 = 0 → 0 < w * h →
      s.params.pmemSize < src + 4 * w * h ∨ s.params.pmemSize < dst + 4 * w * h * f * f →
      Raises (.upscale dst src w h f) s 0x09) ∧
    ((f = 1 ∨ f = 2 ∨ f = 4 ∨ f = 8) → dst % 4 = 0 → src % 4 = 0 → 0 < w * h →
      src + 4 * w * h ≤ s.params.pmemSize → dst + 4 * w * h * f * f ≤ s.params.pmemSize →
      src < dst + 4 * w * h * f * f → dst < src + 4 * w * h → Raises (.upscale dst src w h f) s 0x0B)

/-- Rules R151 and R153: one ×4 UPSCALE leaves the words of two ×2 UPSCALEs, and one ×8 those of three, for every width and
height: the commands run from one state, over regions inside PMEM that are disjoint within each command. -/
def Obligations.UpscaleIsRecursiveDoubling : Prop :=
  ∀ (s : State) (src d1 d2 d3 d4 d8 w h : Nat), Inv s →
    src % 4 = 0 → d1 % 4 = 0 → d2 % 4 = 0 → d3 % 4 = 0 → d4 % 4 = 0 → d8 % 4 = 0 →
    src + 4 * w * h ≤ s.params.pmemSize →
    d1 + 16 * w * h ≤ s.params.pmemSize → d2 + 64 * w * h ≤ s.params.pmemSize →
    d3 + 256 * w * h ≤ s.params.pmemSize → d4 + 64 * w * h ≤ s.params.pmemSize →
    d8 + 256 * w * h ≤ s.params.pmemSize →
    (src + 4 * w * h ≤ d1 ∨ d1 + 16 * w * h ≤ src) →
    (d1 + 16 * w * h ≤ d2 ∨ d2 + 64 * w * h ≤ d1) →
    (d2 + 64 * w * h ≤ d3 ∨ d3 + 256 * w * h ≤ d2) →
    (src + 4 * w * h ≤ d4 ∨ d4 + 64 * w * h ≤ src) →
    (src + 4 * w * h ≤ d8 ∨ d8 + 256 * w * h ≤ src) →
    ∃ a b c u v,
      exec (.upscale d1 src w h 2) s = .next a ∧
      exec (.upscale d2 d1 (2 * w) (2 * h) 2) a = .next b ∧
      exec (.upscale d3 d2 (4 * w) (4 * h) 2) b = .next c ∧
      exec (.upscale d4 src w h 4) s = .next u ∧
      exec (.upscale d8 src w h 8) s = .next v ∧
      (∀ k, k < 16 * (w * h) → readWord b.mem (d2 + 4 * k) = readWord u.mem (d4 + 4 * k)) ∧
      (∀ k, k < 64 * (w * h) → readWord c.mem (d3 + 4 * k) = readWord v.mem (d8 + 4 * k))

/-- Rule R155: under a valid configuration, UPSCALE.FRAME never raises an error; every output pixel is the framebuffer pixel it
magnifies. -/
def Obligations.UpscaleFrameNeverRaises : Prop :=
  ∀ s : State, Inv s → s.cfgValid = true →
    ∃ t, exec (upscaleFrame s) s = .next t ∧
      t = { s with mem := t.mem, cmdCount := s.cmdCount + 1 } ∧
      (∀ X Y, X < s.cfgWidth.toNat * s.cfgFactor.toNat → Y < s.cfgHeight.toNat * s.cfgFactor.toNat →
        outPixel t X Y = fbPixel s (X / s.cfgFactor.toNat) (Y / s.cfgFactor.toNat)) ∧
      SameOutside s.cfgOutBase.toNat (outBytes s) s.mem t.mem

/-! ### Sprites and light (44_sprite_light.md) -/

/-- Rule R160: BLIT copies and BLIT.B blends the on-screen pixels of the sprite placed at (x, y), alpha 0 included, and leaves
every other pixel and byte. That an empty sprite passes wherever it lies is the model's reading (note 10). -/
def Obligations.BlitPlacesTheSprite : Prop :=
  ∀ (s : State) (x y : Int) (sb sw sh : Nat), Inv s → s.cfgValid = true → SpriteOk s sb sw sh →
    DrawsFb (.blit x y sb sw sh) s (fun px py old =>
      if InRect x y sw sh px py then spritePixel s sb sw (px - x).toNat (py - y).toNat else old) ∧
    DrawsFb (.blitB x y sb sw sh) s (fun px py old =>
      if InRect x y sw sh px py then blend (spritePixel s sb sw (px - x).toNat (py - y).toNat) old else old)

/-- Rules R165 and R166: LIGHT replaces and LIGHT.B blends each on-screen pixel under the sprite by the shaded sprite pixel, its
alpha passed through; a sprite pixel of alpha 0 is skipped. That an empty sprite passes wherever it lies is the model's
reading (note 10). -/
def Obligations.LightShadesTheSprite : Prop :=
  ∀ (s : State) (x y : Int) (sb sw sh : Nat) (lx ly : Int) (color : Word) (range : Nat) (ie am : Word),
    Inv s → s.cfgValid = true → SpriteOk s sb sw sh → enableReserved ie = 0 → ambientReserved am = 0 →
    let lp := lightParams lx ly color range ie am
    let src := fun px py : Nat => spritePixel s sb sw (px - x).toNat (py - y).toNat
    let lit := fun px py : Nat =>
      let d2 := ((px : Int) - lx) ^ 2 + ((py : Int) - ly) ^ 2
      pack (BitVec.ofInt 8 (shadeChannel lp d2 (redOf (src px py)).toNat (redOf color).toNat))
        (BitVec.ofInt 8 (shadeChannel lp d2 (greenOf (src px py)).toNat (greenOf color).toNat))
        (BitVec.ofInt 8 (shadeChannel lp d2 (blueOf (src px py)).toNat (blueOf color).toNat))
        (alphaOf (src px py))
    DrawsFb (.light x y sb sw sh lx ly color range ie am) s (fun px py old =>
      if InRect x y sw sh px py ∧ alphaOf (src px py) ≠ 0 then lit px py else old) ∧
    DrawsFb (.lightB x y sb sw sh lx ly color range ie am) s (fun px py old =>
      if InRect x y sw sh px py ∧ alphaOf (src px py) ≠ 0 then blend (lit px py) old else old)

/-- Rules R166 and R167: `Shade(s, L)` lies in [0, 255]; it is ambient alone for a disabled light and at or beyond the range;
inside the range it is the exact value `s·(A + (1 - d²/r²)·I·L/255)` rounded down, or 255 when that is 255 or more; and it
is monotone in the ambient term and in the intensity. -/
def Obligations.ShadeIsExactAndMonotone : Prop :=
  ∀ (lp : LightParams) (d2 : Int) (sc lc : Nat), sc ≤ 255 → lc ≤ 255 → 0 ≤ d2 →
    let r2 : Int := lp.range * lp.range
    let q := shadeChannel lp d2 sc lc
    (0 ≤ q ∧ q ≤ 255) ∧
    (lp.enable = false ∨ r2 ≤ d2 → q = min 255 ((sc * lp.ambient : Int) / 256)) ∧
    (lp.enable = true → d2 < r2 →
      let num : Int := sc * (lp.ambient * 255 * r2 + (r2 - d2) * lp.intensity * lc)
      let den : Int := 256 * 255 * r2
      (q = 255 ∧ 255 * den ≤ num) ∨ (den * q ≤ num ∧ num < den * (q + 1))) ∧
    (∀ a, lp.ambient ≤ a → q ≤ shadeChannel { lp with ambient := a } d2 sc lc) ∧
    (∀ k, lp.intensity ≤ k → q ≤ shadeChannel { lp with intensity := k } d2 sc lc)

/-- Rules R160, R166 and R202: the region errors of BLIT, BLIT.B, LIGHT and LIGHT.B, each before the next, with a configuration and
no reserved bit set. -/
def Obligations.SpriteErrorsInOrder : Prop :=
  ∀ (s : State) (i : Instr) (x y : Int) (sb sw sh : Nat) (lx ly : Int) (color : Word) (range : Nat) (ie am : Word),
    s.cfgValid = true → enableReserved ie = 0 → ambientReserved am = 0 →
    (i = .blit x y sb sw sh ∨ i = .blitB x y sb sw sh ∨ i = .light x y sb sw sh lx ly color range ie am ∨
      i = .lightB x y sb sw sh lx ly color range ie am) →
    (sb % 4 ≠ 0 → Raises i s 0x0A) ∧
    (sb % 4 = 0 → 0 < sw * sh → s.params.pmemSize < sb + 4 * sw * sh → Raises i s 0x09) ∧
    (sb % 4 = 0 → 0 < sw * sh → sb + 4 * sw * sh ≤ s.params.pmemSize → 0 < fbBytes s →
      sb < s.cfgFbBase.toNat + fbBytes s → s.cfgFbBase.toNat < sb + 4 * sw * sh → Raises i s 0x0B)

/-! ### Control (45_control.md) -/

/-- Rule R180: NOP counts and changes nothing else. -/
def Obligations.NopOnlyCounts : Prop :=
  ∀ s : State, exec .nop s = .next { s with cmdCount := s.cmdCount + 1 }

/-- Rule R182: an INIT that passes every check writes the configuration, empties the palette, counts and changes nothing else, no
byte of a buffer among them; and the configuration it leaves is a legal one. -/
def Obligations.InitConfiguresAndEmptiesPalette : Prop :=
  ∀ (s : State) (f w h bi bf bo : Nat), s.params.Legal →
    (f = 1 ∨ f = 2 ∨ f = 4 ∨ f = 8) → s.params.minDim ≤ w → s.params.minDim ≤ h → w % 4 = 0 → h % 4 = 0 →
    bi % 4 = 0 → bf % 4 = 0 → bo % 4 = 0 →
    bi + w * h ≤ s.params.pmemSize → bf + 4 * w * h ≤ s.params.pmemSize →
    bo + 4 * w * h * f * f ≤ s.params.pmemSize →
    (bi + w * h ≤ bf ∨ bf + 4 * w * h ≤ bi) → (bi + w * h ≤ bo ∨ bo + 4 * w * h * f * f ≤ bi) →
    (bf + 4 * w * h ≤ bo ∨ bo + 4 * w * h * f * f ≤ bf) →
    ∃ t, exec (.init f w h bi bf bo) s = .next t ∧
      t = { s with
        cfgFactor := BitVec.ofNat 32 f, cfgWidth := BitVec.ofNat 32 w, cfgHeight := BitVec.ofNat 32 h
        cfgIdxBase := BitVec.ofNat 32 bi, cfgFbBase := BitVec.ofNat 32 bf, cfgOutBase := BitVec.ofNat 32 bo
        cfgValid := true, pal := [], cmdCount := s.cmdCount + 1 } ∧
      t.cfgFactor.toNat = f ∧ t.cfgWidth.toNat = w ∧ t.cfgHeight.toNat = h ∧ t.cfgIdxBase.toNat = bi ∧
      t.cfgFbBase.toNat = bf ∧ t.cfgOutBase.toNat = bo ∧ ConfigOk t

/-- Rules R182, R201 and R202: a failed INIT reports the first check that fails, clears CFG_VALID and changes nothing else; the
other configuration registers and the palette keep their values. -/
def Obligations.InitFailureReportsFirstError : Prop :=
  ∀ (s : State) (f w h bi bf bo : Nat), s.params.Legal →
    let fails := fun code : BitVec 8 =>
      exec (.init f w h bi bf bo) s = .next { s with
        cfgValid := false, errCode := code, errHeader := 0x00000001#32, halted := true
        irqStatus := s.irqStatus ||| 0b010#3 }
    let factorOk := f = 1 ∨ f = 2 ∨ f = 4 ∨ f = 8
    let largeOk := s.params.minDim ≤ w ∧ s.params.minDim ≤ h
    let div4Ok := w % 4 = 0 ∧ h % 4 = 0
    let alignOk := bi % 4 = 0 ∧ bf % 4 = 0 ∧ bo % 4 = 0
    let memOk := bi + w * h ≤ s.params.pmemSize ∧ bf + 4 * w * h ≤ s.params.pmemSize ∧
      bo + 4 * w * h * f * f ≤ s.params.pmemSize
    let apart := (bi + w * h ≤ bf ∨ bf + 4 * w * h ≤ bi) ∧ (bi + w * h ≤ bo ∨ bo + 4 * w * h * f * f ≤ bi) ∧
      (bf + 4 * w * h ≤ bo ∨ bo + 4 * w * h * f * f ≤ bf)
    (¬factorOk → fails 0x01) ∧
    (factorOk → ¬largeOk → fails 0x02) ∧
    (factorOk → largeOk → ¬div4Ok → fails 0x03) ∧
    (factorOk → largeOk → div4Ok → ¬alignOk → fails 0x0A) ∧
    (factorOk → largeOk → div4Ok → alignOk → ¬memOk → fails 0x04) ∧
    (factorOk → largeOk → div4Ok → alignOk → memOk → ¬apart → fails 0x0B)

/-- Rule R186: SIGNAL publishes its value, and SIGNAL.IRQ also sets IRQ_STATUS.SIG. -/
def Obligations.SignalPublishesItsValue : Prop :=
  ∀ (s : State) (v : Word),
    exec (.signal v) s = .next { s with signal := v, cmdCount := s.cmdCount + 1 } ∧
    exec (.signalIrq v) s = .next { s with
      signal := v, irqStatus := s.irqStatus ||| 0b001#3, cmdCount := s.cmdCount + 1 }

/-! ### The whole machine -/

/-- Rules R32 and R201, of every command: it counts once and touches no error register, or it raises an error, which writes
ERR_CODE, ERR_HEADER, HALTED and IRQ_STATUS.ERR and nothing else but the CFG_VALID that a failed INIT clears. -/
def Obligations.CommandsCompleteOrRaisePrecisely : Prop :=
  ∀ (i : Instr) (s t : State), exec i s = .next t →
    (t.cmdCount = s.cmdCount + 1 ∧ t.halted = s.halted ∧ t.errCode = s.errCode ∧ t.errHeader = s.errHeader ∧
      t.irqStatus.getLsbD 1 = s.irqStatus.getLsbD 1) ∨
    (∃ e : CommandError,
      t = { s with
        errCode := errorCode e, errHeader := headerWord i, halted := true
        irqStatus := s.irqStatus ||| 0b010#3, cfgValid := t.cfgValid } ∧
      (IsInit i → t.cfgValid = false) ∧ (¬IsInit i → t.cfgValid = s.cfgValid))

/-- Rules R30, R31, R40 and R50: which commands can change which registers, the palette and pixel memory. No command changes the
parameters, the FIFO behind its packet, IRQ_ENABLE or the ports. -/
def Obligations.OnlyNamedCommandsWriteState : Prop :=
  ∀ (i : Instr) (s t : State), exec i s = .next t →
    (t.params = s.params ∧ t.fifo = s.fifo ∧ t.irqEnable = s.irqEnable ∧ t.port = s.port ∧
      t.portResponse = s.portResponse) ∧
    (t.result ≠ s.result → ∃ c, i = .palAdd c ∨ i = .palFind c) ∧
    (t.signal ≠ s.signal → ∃ v, i = .signal v ∨ i = .signalIrq v) ∧
    (t.pal ≠ s.pal → (∃ c, i = .palAdd c) ∨ IsInit i) ∧
    (t.cfgValid ≠ s.cfgValid ∨ t.cfgFactor ≠ s.cfgFactor ∨ t.cfgWidth ≠ s.cfgWidth ∨ t.cfgHeight ≠ s.cfgHeight ∨
      t.cfgIdxBase ≠ s.cfgIdxBase ∨ t.cfgFbBase ≠ s.cfgFbBase ∨ t.cfgOutBase ≠ s.cfgOutBase → IsInit i) ∧
    (t.mem ≠ s.mem → needsConfig i = true ∨ (∃ d a n, i = .convert d a n) ∨ ∃ d a w h f, i = .upscale d a w h f)

/-- Rules R211 and R212: one command sets at most one event bit: SIG, and then it is a SIGNAL.IRQ, or ERR, and then the engine is
halted; it never sets OVF and never clears a bit. -/
def Obligations.OneCommandSetsAtMostOneEvent : Prop :=
  ∀ (i : Instr) (s t : State), exec i s = .next t →
    t.irqStatus = s.irqStatus ∨
    (t.irqStatus = s.irqStatus ||| 0b001#3 ∧ ∃ v, i = .signalIrq v) ∨
    (t.irqStatus = s.irqStatus ||| 0b010#3 ∧ t.halted = true)

/-- Rule R40: the palette is only ever appended to, except that a successful INIT empties it. -/
def Obligations.PaletteNeverShrinksInSession : Prop :=
  ∀ (i : Instr) (s t : State), exec i s = .next t →
    s.pal <+: t.pal ∨ (IsInit i ∧ t.pal = [] ∧ t.cfgValid = true)

/-- Rules R230 and R231: what the reset input and a soft reset leave: every row of the reset table, and pixel memory unchanged.
That the rest of the host's script and its latest answer are kept, and that the answer to the write of CTRL carries data 0,
is the model's choice (note 8). -/
def Obligations.ResetLeavesTheTable : Prop :=
  ∀ (s : State) (ev : List PortEvent) (v : Word),
    let clean : State :=
      { params := s.params, fifo := [], halted := false, cfgValid := false, errCode := 0, errHeader := 0
        irqStatus := 0, irqEnable := 0, result := 0, signal := 0, cmdCount := 0, pal := []
        cfgFactor := 0, cfgWidth := 0, cfgHeight := 0, cfgIdxBase := 0, cfgFbBase := 0, cfgOutBase := 0
        mem := s.mem, port := ev, portResponse := s.portResponse }
    (s.port = .resetInput :: ev → step s = .next clean) ∧
    (s.port = .access (.regWrite 0x004#32 .word v) :: ev → v.getLsbD 0 = true →
      step s = .next { clean with portResponse := some ⟨0, false⟩ }) ∧
    irqLine clean = false ∧ busy clean = false

/-- The invariant holds after power-on with any legal parameters and any pixel memory (rules R6, R77, R230), and at
`State.reset`. The values `State.reset` takes for the parameters and PMEM are the model's choice (notes 1 and 2). -/
def Obligations.PowerOnMeetsInvariant : Prop :=
  (∀ (p : Params) (m : Memory), p.Legal → Memory.wf m = true → (∀ c ∈ m, c.1 < p.pmemSize) →
    Inv (State.powerOn p m)) ∧ Inv State.reset

/-- Every step of the block, of either agent, keeps the invariant: legal parameters, pixel memory in canonical form and inside
PMEM (R60), the FIFO within its capacity (R45), ERR_CODE ≠ 0 exactly when halted (R25) and at most 0x0C (R200), at most 256
palette entries (R40) with no two equal (R41), and a valid configuration that INIT would accept (R50). -/
def Obligations.EveryStepKeepsInvariant : Prop :=
  ∀ s t : State, Inv s → step s = .next t → Inv t

/-- From a state that meets the invariant every step answers a next state: no command faults, none is refused, and no access
leaves PMEM (R62, R205). That a halted, empty or incomplete engine's step also answers a next state, the unchanged one, is
the model's choice (note 5): by R46, R47 and R81 the engine takes no step then, and 93_implementation_defined.md calls it
stuck. -/
def Obligations.NoStopFromInvariant : Prop :=
  ∀ s : State, Inv s → ∃ t, step s = .next t
end

