-- ==== Sys2Proof/Laws/Memory.lean ====
section
/-! SUPPORT. Pixel memory: a read after a write, that every write keeps the canonical form and lists only the bytes
written, and what a sequence of word writes at disjoint addresses leaves. -/

namespace Sys2Proof.Machine

/-! ### Canonical form -/

theorem wfAbove_mono {low low' : Nat} (h : low' ≤ low) : ∀ {m : Memory}, wfAbove low m = true → wfAbove low' m = true
  | [], _ => rfl
  | (k, b) :: rest, hw => by
      simp only [wfAbove, Bool.and_eq_true, decide_eq_true_eq] at hw ⊢
      exact ⟨⟨by omega, hw.1.2⟩, hw.2⟩

theorem readByte_of_wfAbove {low a : Nat} (h : a ≤ low) :
    ∀ {m : Memory}, wfAbove low m = true → readByte m a = blankByte
  | [], _ => rfl
  | (k, b) :: rest, hw => by
      simp only [wfAbove, Bool.and_eq_true, decide_eq_true_eq] at hw
      have : k ≠ a := by omega
      simp only [readByte, this, if_false]
      exact readByte_of_wfAbove (by omega) hw.2

theorem wf_iff_wfAbove_tail {k : Nat} {b : Byte} {rest : Memory} :
    Memory.wf ((k, b) :: rest) = true ↔ b ≠ blankByte ∧ wfAbove k rest = true := by
  simp [Memory.wf]

theorem wf_of_wfAbove {low : Nat} : ∀ {m : Memory}, wfAbove low m = true → Memory.wf m = true
  | [], _ => rfl
  | (k, b) :: rest, hw => by
      simp only [wfAbove, Bool.and_eq_true, decide_eq_true_eq] at hw
      exact wf_iff_wfAbove_tail.2 ⟨hw.1.2, hw.2⟩

theorem writeByte_wfAbove {low a : Nat} (v : Byte) (ha : low < a) :
    ∀ {m : Memory}, wfAbove low m = true → wfAbove low (writeByte m a v) = true := by
  intro m
  induction m generalizing low with
  | nil =>
      intro _
      by_cases hv : v = blankByte
      · simp [writeByte, wfAbove, hv]
      · simp [writeByte, wfAbove, hv, ha]
  | cons c rest ih =>
      obtain ⟨k, b⟩ := c
      intro hw
      have hw' := hw
      simp only [wfAbove, Bool.and_eq_true, decide_eq_true_eq] at hw'
      obtain ⟨⟨hk, hb⟩, hrest⟩ := hw'
      by_cases h1 : a < k
      · by_cases hv : v = blankByte
        · simpa [writeByte, h1, hv] using hw
        · simp [writeByte, h1, hv, wfAbove, ha, hb, hrest]
      · by_cases h2 : a = k
        · subst h2
          by_cases hv : v = blankByte
          · simpa [writeByte, hv] using wfAbove_mono (by omega) hrest
          · simp [writeByte, hv, wfAbove, ha, hrest]
        · simp only [writeByte, h1, h2, if_false, wfAbove, Bool.and_eq_true, decide_eq_true_eq]
          exact ⟨⟨hk, hb⟩, ih (by omega) hrest⟩

/-- A byte write keeps the canonical form. -/
theorem writeByte_wf {m : Memory} (a : Nat) (v : Byte) (hw : Memory.wf m = true) :
    Memory.wf (writeByte m a v) = true := by
  cases m with
  | nil => by_cases hv : v = blankByte <;> simp [writeByte, Memory.wf, wfAbove, hv]
  | cons c rest =>
      obtain ⟨k, b⟩ := c
      obtain ⟨hb, hrest⟩ := wf_iff_wfAbove_tail.1 hw
      by_cases h1 : a < k
      · by_cases hv : v = blankByte
        · simpa [writeByte, h1, hv] using hw
        · simp [writeByte, h1, hv, Memory.wf, wfAbove, hb, hrest]
      · by_cases h2 : a = k
        · subst h2
          by_cases hv : v = blankByte
          · simpa [writeByte, hv] using wf_of_wfAbove hrest
          · simp [writeByte, hv, Memory.wf, hrest]
        · simp only [writeByte, h1, h2, if_false]
          exact wf_iff_wfAbove_tail.2 ⟨hb, writeByte_wfAbove v (by omega) hrest⟩

/-- A word write keeps the canonical form. -/
theorem writeWord_wf {m : Memory} (a : Nat) (v : Word) (hw : Memory.wf m = true) :
    Memory.wf (writeWord m a v) = true :=
  writeByte_wf _ _ (writeByte_wf _ _ (writeByte_wf _ _ (writeByte_wf _ _ hw)))

/-- A byte write lists at most the address written beside what was listed. -/
theorem mem_writeByte {m : Memory} {a : Nat} {v : Byte} {c : Host.Cell} (h : c ∈ writeByte m a v) :
    c.1 = a ∨ c ∈ m := by
  induction m with
  | nil =>
      by_cases hv : v = blankByte <;> simp_all [writeByte]
  | cons d rest ih =>
      obtain ⟨k, b⟩ := d
      simp only [writeByte] at h
      split at h
      · split at h
        · exact .inr h
        · rcases List.mem_cons.1 h with rfl | h
          · exact .inl rfl
          · exact .inr h
      · split at h
        · split at h
          · exact .inr (List.mem_cons_of_mem _ h)
          · rcases List.mem_cons.1 h with rfl | h
            · exact .inl rfl
            · exact .inr (List.mem_cons_of_mem _ h)
        · rcases List.mem_cons.1 h with rfl | h
          · exact .inr (List.mem_cons_self)
          · rcases ih h with h | h
            · exact .inl h
            · exact .inr (List.mem_cons_of_mem _ h)

/-- A word write lists at most the four addresses written beside what was listed. -/
theorem mem_writeWord {m : Memory} {a : Nat} {v : Word} {c : Host.Cell} (h : c ∈ writeWord m a v) :
    (a ≤ c.1 ∧ c.1 < a + 4) ∨ c ∈ m := by
  rcases mem_writeByte h with h | h
  · exact .inl (by omega)
  rcases mem_writeByte h with h | h
  · exact .inl (by omega)
  rcases mem_writeByte h with h | h
  · exact .inl (by omega)
  rcases mem_writeByte h with h | h
  · exact .inl (by omega)
  · exact .inr h

/-! ### Reads after writes -/

/-- A write leaves every other byte alone. -/
theorem readByte_writeByte_ne {m : Memory} {a a' : Nat} (v : Byte) (h : a' ≠ a) :
    readByte (writeByte m a v) a' = readByte m a' := by
  have h' : a ≠ a' := fun e => h e.symm
  induction m with
  | nil => by_cases hv : v = blankByte <;> simp [writeByte, readByte, hv, h']
  | cons d rest ih =>
      obtain ⟨k, b⟩ := d
      simp only [writeByte]
      split
      · split
        · rfl
        · simp [readByte, h']
      · split
        · rename_i h2
          have hk : k ≠ a' := h2 ▸ h'
          split <;> simp [readByte, h', hk]
        · simp only [readByte, ih]

/-- A read of the byte just written gives it back. -/
theorem readByte_writeByte_self {m : Memory} (a : Nat) (v : Byte) (hw : Memory.wf m = true) :
    readByte (writeByte m a v) a = v := by
  induction m with
  | nil => by_cases hv : v = blankByte <;> simp [writeByte, readByte, hv]
  | cons d rest ih =>
      obtain ⟨k, b⟩ := d
      obtain ⟨_, hrest⟩ := wf_iff_wfAbove_tail.1 hw
      simp only [writeByte]
      split
      · rename_i h1
        have hk : k ≠ a := by omega
        split
        · rename_i hv
          simp only [readByte, hk, if_false]
          rw [readByte_of_wfAbove (by omega) hrest, hv]
        · simp [readByte]
      · split
        · rename_i h2
          split
          · rename_i hv
            rw [readByte_of_wfAbove (by omega) hrest, hv]
          · simp [readByte]
        · rename_i h2
          have hk : k ≠ a := fun e => h2 e.symm
          simp only [readByte, hk, if_false]
          exact ih (wf_of_wfAbove hrest)

/-- Byte `k` of a word write (rule R63). -/
theorem readByte_writeWord {m : Memory} (a : Nat) (v : Word) (hw : Memory.wf m = true) :
    readByte (writeWord m a v) a = v.extractLsb' 0 8 ∧
    readByte (writeWord m a v) (a + 1) = v.extractLsb' 8 8 ∧
    readByte (writeWord m a v) (a + 2) = v.extractLsb' 16 8 ∧
    readByte (writeWord m a v) (a + 3) = v.extractLsb' 24 8 := by
  have w0 := writeByte_wf a (v.extractLsb' 0 8) hw
  have w1 := writeByte_wf (a + 1) (v.extractLsb' 8 8) w0
  have w2 := writeByte_wf (a + 2) (v.extractLsb' 16 8) w1
  unfold writeWord
  refine ⟨?_, ?_, ?_, readByte_writeByte_self _ _ w2⟩
  · rw [readByte_writeByte_ne _ (by omega), readByte_writeByte_ne _ (by omega),
      readByte_writeByte_ne _ (by omega), readByte_writeByte_self _ _ hw]
  · rw [readByte_writeByte_ne _ (by omega), readByte_writeByte_ne _ (by omega),
      readByte_writeByte_self _ _ w0]
  · rw [readByte_writeByte_ne _ (by omega), readByte_writeByte_self _ _ w1]

/-- A word is its four bytes. -/
theorem word_of_bytes (v : Word) :
    v.extractLsb' 24 8 ++ v.extractLsb' 16 8 ++ v.extractLsb' 8 8 ++ v.extractLsb' 0 8 = v := by
  ext i hi
  simp only [BitVec.getElem_append, BitVec.getElem_extractLsb']
  split
  · simp [← BitVec.getLsbD_eq_getElem]
  · split
    · simp only [← BitVec.getLsbD_eq_getElem]; congr 1; omega
    · split
      · simp only [← BitVec.getLsbD_eq_getElem]; congr 1; omega
      · simp only [← BitVec.getLsbD_eq_getElem]; congr 1; omega

/-- A word read of the word just written gives it back. -/
theorem readWord_writeWord_self {m : Memory} (a : Nat) (v : Word) (hw : Memory.wf m = true) :
    readWord (writeWord m a v) a = v := by
  obtain ⟨h0, h1, h2, h3⟩ := readByte_writeWord a v hw
  rw [readWord, h0, h1, h2, h3]
  exact word_of_bytes v

/-- A word write leaves every byte outside its four alone. -/
theorem readByte_writeWord_ne {m : Memory} {a a' : Nat} (v : Word) (h : a' < a ∨ a + 4 ≤ a') :
    readByte (writeWord m a v) a' = readByte m a' := by
  unfold writeWord
  rw [readByte_writeByte_ne _ (by omega), readByte_writeByte_ne _ (by omega),
    readByte_writeByte_ne _ (by omega), readByte_writeByte_ne _ (by omega)]

/-- Words made of the same bytes are equal. -/
theorem readWord_congr {m m' : Memory} {a : Nat}
    (h : ∀ k, a ≤ k → k < a + 4 → readByte m k = readByte m' k) : readWord m a = readWord m' a := by
  unfold readWord
  rw [h a (by omega) (by omega), h (a + 1) (by omega) (by omega), h (a + 2) (by omega) (by omega),
    h (a + 3) (by omega) (by omega)]

/-- A word write leaves every disjoint word alone. -/
theorem readWord_writeWord_ne {m : Memory} {a a' : Nat} (v : Word) (h : a' + 4 ≤ a ∨ a + 4 ≤ a') :
    readWord (writeWord m a v) a' = readWord m a' :=
  readWord_congr fun k _ _ => readByte_writeWord_ne v (by omega)

/-- A byte write leaves every word that does not hold the byte alone. -/
theorem readWord_writeByte_ne {m : Memory} {a a' : Nat} (v : Byte) (h : a < a' ∨ a' + 4 ≤ a) :
    readWord (writeByte m a v) a' = readWord m a' :=
  readWord_congr fun k _ _ => readByte_writeByte_ne v (by omega)

/-! ### A loop of word writes at disjoint addresses -/

/-- `for p in l: MemWrite(addr p, 4, val p)`, where `val` may read memory. -/
theorem foldl_writeWord_wf {α : Type} (addr : α → Nat) (val : Memory → α → Word) (l : List α) :
    ∀ m, Memory.wf m = true → Memory.wf (l.foldl (fun m p => writeWord m (addr p) (val m p)) m) = true := by
  induction l with
  | nil => exact fun m hm => hm
  | cons p l ih => exact fun m hm => ih _ (writeWord_wf _ _ hm)

/-- The loop leaves every byte outside the written words alone. -/
theorem readByte_foldl_writeWord {α : Type} (addr : α → Nat) (val : Memory → α → Word) {a : Nat} (l : List α)
    (h : ∀ p ∈ l, a < addr p ∨ addr p + 4 ≤ a) :
    ∀ m, readByte (l.foldl (fun m p => writeWord m (addr p) (val m p)) m) a = readByte m a := by
  induction l with
  | nil => exact fun m => rfl
  | cons p l ih =>
      intro m
      rw [List.foldl_cons, ih (fun q hq => h q (List.mem_cons_of_mem _ hq)),
        readByte_writeWord_ne _ (h p List.mem_cons_self)]

/-- When the values depend only on bytes that the loop does not write (those satisfying `src`), each written word holds the
value computed from the memory the loop started from. -/
theorem readWord_foldl_writeWord {α : Type} (addr : α → Nat) (val : Memory → α → Word) (src : Nat → Prop)
    (m0 : Memory) (l : List α)
    (hsrc : ∀ p ∈ l, ∀ a, src a → a < addr p ∨ addr p + 4 ≤ a)
    (hval : ∀ m, (∀ a, src a → readByte m a = readByte m0 a) → ∀ p ∈ l, val m p = val m0 p)
    (hdis : l.Pairwise fun p q => addr p + 4 ≤ addr q ∨ addr q + 4 ≤ addr p) :
    ∀ m, Memory.wf m = true → (∀ a, src a → readByte m a = readByte m0 a) →
      ∀ p ∈ l, readWord (l.foldl (fun m p => writeWord m (addr p) (val m p)) m) (addr p) = val m0 p := by
  induction l with
  | nil => intro m _ _ p hp; cases hp
  | cons q l ih =>
      intro m hm hsame p hp
      have hq := List.mem_cons_self (a := q) (l := l)
      obtain ⟨hd, hdis'⟩ := List.pairwise_cons.1 hdis
      rw [List.foldl_cons]
      rcases List.mem_cons.1 hp with rfl | hp
      · rw [readWord_congr (m' := writeWord m (addr p) (val m p)) (fun k hk hk' =>
          readByte_foldl_writeWord addr val l (fun r hr => by have := hd r hr; omega) _),
          readWord_writeWord_self _ _ hm, hval m hsame p hq]
      · exact ih (fun r hr => hsrc r (List.mem_cons_of_mem _ hr))
          (fun m' h' r hr => hval m' h' r (List.mem_cons_of_mem _ hr)) hdis' _ (writeWord_wf _ _ hm)
          (fun a ha => by rw [readByte_writeWord_ne _ (hsrc q hq a ha), hsame a ha]) p hp

end Sys2Proof.Machine
end

