-- ==== Sys2Proof/Laws/State.lean ====
section
/-! SUPPORT. One lemma per field per named update of the state: what the update leaves in the field. -/

namespace Sys2Proof.Machine

/-! ### setMem -/

@[simp] theorem setMem_params (s : State) (m : Memory) : (setMem s m).params = s.params := rfl
@[simp] theorem setMem_fifo (s : State) (m : Memory) : (setMem s m).fifo = s.fifo := rfl
@[simp] theorem setMem_halted (s : State) (m : Memory) : (setMem s m).halted = s.halted := rfl
@[simp] theorem setMem_cfgValid (s : State) (m : Memory) : (setMem s m).cfgValid = s.cfgValid := rfl
@[simp] theorem setMem_errCode (s : State) (m : Memory) : (setMem s m).errCode = s.errCode := rfl
@[simp] theorem setMem_errHeader (s : State) (m : Memory) : (setMem s m).errHeader = s.errHeader := rfl
@[simp] theorem setMem_irqStatus (s : State) (m : Memory) : (setMem s m).irqStatus = s.irqStatus := rfl
@[simp] theorem setMem_irqEnable (s : State) (m : Memory) : (setMem s m).irqEnable = s.irqEnable := rfl
@[simp] theorem setMem_result (s : State) (m : Memory) : (setMem s m).result = s.result := rfl
@[simp] theorem setMem_signal (s : State) (m : Memory) : (setMem s m).signal = s.signal := rfl
@[simp] theorem setMem_cmdCount (s : State) (m : Memory) : (setMem s m).cmdCount = s.cmdCount := rfl
@[simp] theorem setMem_pal (s : State) (m : Memory) : (setMem s m).pal = s.pal := rfl
@[simp] theorem setMem_cfgFactor (s : State) (m : Memory) : (setMem s m).cfgFactor = s.cfgFactor := rfl
@[simp] theorem setMem_cfgWidth (s : State) (m : Memory) : (setMem s m).cfgWidth = s.cfgWidth := rfl
@[simp] theorem setMem_cfgHeight (s : State) (m : Memory) : (setMem s m).cfgHeight = s.cfgHeight := rfl
@[simp] theorem setMem_cfgIdxBase (s : State) (m : Memory) : (setMem s m).cfgIdxBase = s.cfgIdxBase := rfl
@[simp] theorem setMem_cfgFbBase (s : State) (m : Memory) : (setMem s m).cfgFbBase = s.cfgFbBase := rfl
@[simp] theorem setMem_cfgOutBase (s : State) (m : Memory) : (setMem s m).cfgOutBase = s.cfgOutBase := rfl
@[simp] theorem setMem_mem (s : State) (m : Memory) : (setMem s m).mem = m := rfl
@[simp] theorem setMem_port (s : State) (m : Memory) : (setMem s m).port = s.port := rfl
@[simp] theorem setMem_portResponse (s : State) (m : Memory) : (setMem s m).portResponse = s.portResponse := rfl

/-! ### setFifo -/

@[simp] theorem setFifo_params (s : State) (w : List Word) : (setFifo s w).params = s.params := rfl
@[simp] theorem setFifo_fifo (s : State) (w : List Word) : (setFifo s w).fifo = w := rfl
@[simp] theorem setFifo_halted (s : State) (w : List Word) : (setFifo s w).halted = s.halted := rfl
@[simp] theorem setFifo_cfgValid (s : State) (w : List Word) : (setFifo s w).cfgValid = s.cfgValid := rfl
@[simp] theorem setFifo_errCode (s : State) (w : List Word) : (setFifo s w).errCode = s.errCode := rfl
@[simp] theorem setFifo_errHeader (s : State) (w : List Word) : (setFifo s w).errHeader = s.errHeader := rfl
@[simp] theorem setFifo_irqStatus (s : State) (w : List Word) : (setFifo s w).irqStatus = s.irqStatus := rfl
@[simp] theorem setFifo_irqEnable (s : State) (w : List Word) : (setFifo s w).irqEnable = s.irqEnable := rfl
@[simp] theorem setFifo_result (s : State) (w : List Word) : (setFifo s w).result = s.result := rfl
@[simp] theorem setFifo_signal (s : State) (w : List Word) : (setFifo s w).signal = s.signal := rfl
@[simp] theorem setFifo_cmdCount (s : State) (w : List Word) : (setFifo s w).cmdCount = s.cmdCount := rfl
@[simp] theorem setFifo_pal (s : State) (w : List Word) : (setFifo s w).pal = s.pal := rfl
@[simp] theorem setFifo_cfgFactor (s : State) (w : List Word) : (setFifo s w).cfgFactor = s.cfgFactor := rfl
@[simp] theorem setFifo_cfgWidth (s : State) (w : List Word) : (setFifo s w).cfgWidth = s.cfgWidth := rfl
@[simp] theorem setFifo_cfgHeight (s : State) (w : List Word) : (setFifo s w).cfgHeight = s.cfgHeight := rfl
@[simp] theorem setFifo_cfgIdxBase (s : State) (w : List Word) : (setFifo s w).cfgIdxBase = s.cfgIdxBase := rfl
@[simp] theorem setFifo_cfgFbBase (s : State) (w : List Word) : (setFifo s w).cfgFbBase = s.cfgFbBase := rfl
@[simp] theorem setFifo_cfgOutBase (s : State) (w : List Word) : (setFifo s w).cfgOutBase = s.cfgOutBase := rfl
@[simp] theorem setFifo_mem (s : State) (w : List Word) : (setFifo s w).mem = s.mem := rfl
@[simp] theorem setFifo_port (s : State) (w : List Word) : (setFifo s w).port = s.port := rfl
@[simp] theorem setFifo_portResponse (s : State) (w : List Word) : (setFifo s w).portResponse = s.portResponse := rfl

/-! ### setPort -/

@[simp] theorem setPort_params (s : State) (e : List PortEvent) : (setPort s e).params = s.params := rfl
@[simp] theorem setPort_fifo (s : State) (e : List PortEvent) : (setPort s e).fifo = s.fifo := rfl
@[simp] theorem setPort_halted (s : State) (e : List PortEvent) : (setPort s e).halted = s.halted := rfl
@[simp] theorem setPort_cfgValid (s : State) (e : List PortEvent) : (setPort s e).cfgValid = s.cfgValid := rfl
@[simp] theorem setPort_errCode (s : State) (e : List PortEvent) : (setPort s e).errCode = s.errCode := rfl
@[simp] theorem setPort_errHeader (s : State) (e : List PortEvent) : (setPort s e).errHeader = s.errHeader := rfl
@[simp] theorem setPort_irqStatus (s : State) (e : List PortEvent) : (setPort s e).irqStatus = s.irqStatus := rfl
@[simp] theorem setPort_irqEnable (s : State) (e : List PortEvent) : (setPort s e).irqEnable = s.irqEnable := rfl
@[simp] theorem setPort_result (s : State) (e : List PortEvent) : (setPort s e).result = s.result := rfl
@[simp] theorem setPort_signal (s : State) (e : List PortEvent) : (setPort s e).signal = s.signal := rfl
@[simp] theorem setPort_cmdCount (s : State) (e : List PortEvent) : (setPort s e).cmdCount = s.cmdCount := rfl
@[simp] theorem setPort_pal (s : State) (e : List PortEvent) : (setPort s e).pal = s.pal := rfl
@[simp] theorem setPort_cfgFactor (s : State) (e : List PortEvent) : (setPort s e).cfgFactor = s.cfgFactor := rfl
@[simp] theorem setPort_cfgWidth (s : State) (e : List PortEvent) : (setPort s e).cfgWidth = s.cfgWidth := rfl
@[simp] theorem setPort_cfgHeight (s : State) (e : List PortEvent) : (setPort s e).cfgHeight = s.cfgHeight := rfl
@[simp] theorem setPort_cfgIdxBase (s : State) (e : List PortEvent) : (setPort s e).cfgIdxBase = s.cfgIdxBase := rfl
@[simp] theorem setPort_cfgFbBase (s : State) (e : List PortEvent) : (setPort s e).cfgFbBase = s.cfgFbBase := rfl
@[simp] theorem setPort_cfgOutBase (s : State) (e : List PortEvent) : (setPort s e).cfgOutBase = s.cfgOutBase := rfl
@[simp] theorem setPort_mem (s : State) (e : List PortEvent) : (setPort s e).mem = s.mem := rfl
@[simp] theorem setPort_port (s : State) (e : List PortEvent) : (setPort s e).port = e := rfl
@[simp] theorem setPort_portResponse (s : State) (e : List PortEvent) : (setPort s e).portResponse = s.portResponse := rfl

/-! ### countCommand -/

@[simp] theorem countCommand_params (s : State) : (countCommand s).params = s.params := rfl
@[simp] theorem countCommand_fifo (s : State) : (countCommand s).fifo = s.fifo := rfl
@[simp] theorem countCommand_halted (s : State) : (countCommand s).halted = s.halted := rfl
@[simp] theorem countCommand_cfgValid (s : State) : (countCommand s).cfgValid = s.cfgValid := rfl
@[simp] theorem countCommand_errCode (s : State) : (countCommand s).errCode = s.errCode := rfl
@[simp] theorem countCommand_errHeader (s : State) : (countCommand s).errHeader = s.errHeader := rfl
@[simp] theorem countCommand_irqStatus (s : State) : (countCommand s).irqStatus = s.irqStatus := rfl
@[simp] theorem countCommand_irqEnable (s : State) : (countCommand s).irqEnable = s.irqEnable := rfl
@[simp] theorem countCommand_result (s : State) : (countCommand s).result = s.result := rfl
@[simp] theorem countCommand_signal (s : State) : (countCommand s).signal = s.signal := rfl
@[simp] theorem countCommand_cmdCount (s : State) : (countCommand s).cmdCount = s.cmdCount + 1#32 := rfl
@[simp] theorem countCommand_pal (s : State) : (countCommand s).pal = s.pal := rfl
@[simp] theorem countCommand_cfgFactor (s : State) : (countCommand s).cfgFactor = s.cfgFactor := rfl
@[simp] theorem countCommand_cfgWidth (s : State) : (countCommand s).cfgWidth = s.cfgWidth := rfl
@[simp] theorem countCommand_cfgHeight (s : State) : (countCommand s).cfgHeight = s.cfgHeight := rfl
@[simp] theorem countCommand_cfgIdxBase (s : State) : (countCommand s).cfgIdxBase = s.cfgIdxBase := rfl
@[simp] theorem countCommand_cfgFbBase (s : State) : (countCommand s).cfgFbBase = s.cfgFbBase := rfl
@[simp] theorem countCommand_cfgOutBase (s : State) : (countCommand s).cfgOutBase = s.cfgOutBase := rfl
@[simp] theorem countCommand_mem (s : State) : (countCommand s).mem = s.mem := rfl
@[simp] theorem countCommand_port (s : State) : (countCommand s).port = s.port := rfl
@[simp] theorem countCommand_portResponse (s : State) : (countCommand s).portResponse = s.portResponse := rfl

/-! ### raiseError -/

@[simp] theorem raiseError_params (e : CommandError) (h : Word) (s : State) : (raiseError e h s).params = s.params := rfl
@[simp] theorem raiseError_fifo (e : CommandError) (h : Word) (s : State) : (raiseError e h s).fifo = s.fifo := rfl
@[simp] theorem raiseError_halted (e : CommandError) (h : Word) (s : State) : (raiseError e h s).halted = true := rfl
@[simp] theorem raiseError_cfgValid (e : CommandError) (h : Word) (s : State) : (raiseError e h s).cfgValid = s.cfgValid := rfl
@[simp] theorem raiseError_errCode (e : CommandError) (h : Word) (s : State) : (raiseError e h s).errCode = errorCode e := rfl
@[simp] theorem raiseError_errHeader (e : CommandError) (h : Word) (s : State) : (raiseError e h s).errHeader = h := rfl
@[simp] theorem raiseError_irqStatus (e : CommandError) (h : Word) (s : State) : (raiseError e h s).irqStatus = s.irqStatus ||| irqErrBit := rfl
@[simp] theorem raiseError_irqEnable (e : CommandError) (h : Word) (s : State) : (raiseError e h s).irqEnable = s.irqEnable := rfl
@[simp] theorem raiseError_result (e : CommandError) (h : Word) (s : State) : (raiseError e h s).result = s.result := rfl
@[simp] theorem raiseError_signal (e : CommandError) (h : Word) (s : State) : (raiseError e h s).signal = s.signal := rfl
@[simp] theorem raiseError_cmdCount (e : CommandError) (h : Word) (s : State) : (raiseError e h s).cmdCount = s.cmdCount := rfl
@[simp] theorem raiseError_pal (e : CommandError) (h : Word) (s : State) : (raiseError e h s).pal = s.pal := rfl
@[simp] theorem raiseError_cfgFactor (e : CommandError) (h : Word) (s : State) : (raiseError e h s).cfgFactor = s.cfgFactor := rfl
@[simp] theorem raiseError_cfgWidth (e : CommandError) (h : Word) (s : State) : (raiseError e h s).cfgWidth = s.cfgWidth := rfl
@[simp] theorem raiseError_cfgHeight (e : CommandError) (h : Word) (s : State) : (raiseError e h s).cfgHeight = s.cfgHeight := rfl
@[simp] theorem raiseError_cfgIdxBase (e : CommandError) (h : Word) (s : State) : (raiseError e h s).cfgIdxBase = s.cfgIdxBase := rfl
@[simp] theorem raiseError_cfgFbBase (e : CommandError) (h : Word) (s : State) : (raiseError e h s).cfgFbBase = s.cfgFbBase := rfl
@[simp] theorem raiseError_cfgOutBase (e : CommandError) (h : Word) (s : State) : (raiseError e h s).cfgOutBase = s.cfgOutBase := rfl
@[simp] theorem raiseError_mem (e : CommandError) (h : Word) (s : State) : (raiseError e h s).mem = s.mem := rfl
@[simp] theorem raiseError_port (e : CommandError) (h : Word) (s : State) : (raiseError e h s).port = s.port := rfl
@[simp] theorem raiseError_portResponse (e : CommandError) (h : Word) (s : State) : (raiseError e h s).portResponse = s.portResponse := rfl

/-! ### setIrq -/

@[simp] theorem setIrq_params (b : BitVec 3) (s : State) : (setIrq b s).params = s.params := rfl
@[simp] theorem setIrq_fifo (b : BitVec 3) (s : State) : (setIrq b s).fifo = s.fifo := rfl
@[simp] theorem setIrq_halted (b : BitVec 3) (s : State) : (setIrq b s).halted = s.halted := rfl
@[simp] theorem setIrq_cfgValid (b : BitVec 3) (s : State) : (setIrq b s).cfgValid = s.cfgValid := rfl
@[simp] theorem setIrq_errCode (b : BitVec 3) (s : State) : (setIrq b s).errCode = s.errCode := rfl
@[simp] theorem setIrq_errHeader (b : BitVec 3) (s : State) : (setIrq b s).errHeader = s.errHeader := rfl
@[simp] theorem setIrq_irqStatus (b : BitVec 3) (s : State) : (setIrq b s).irqStatus = s.irqStatus ||| b := rfl
@[simp] theorem setIrq_irqEnable (b : BitVec 3) (s : State) : (setIrq b s).irqEnable = s.irqEnable := rfl
@[simp] theorem setIrq_result (b : BitVec 3) (s : State) : (setIrq b s).result = s.result := rfl
@[simp] theorem setIrq_signal (b : BitVec 3) (s : State) : (setIrq b s).signal = s.signal := rfl
@[simp] theorem setIrq_cmdCount (b : BitVec 3) (s : State) : (setIrq b s).cmdCount = s.cmdCount := rfl
@[simp] theorem setIrq_pal (b : BitVec 3) (s : State) : (setIrq b s).pal = s.pal := rfl
@[simp] theorem setIrq_cfgFactor (b : BitVec 3) (s : State) : (setIrq b s).cfgFactor = s.cfgFactor := rfl
@[simp] theorem setIrq_cfgWidth (b : BitVec 3) (s : State) : (setIrq b s).cfgWidth = s.cfgWidth := rfl
@[simp] theorem setIrq_cfgHeight (b : BitVec 3) (s : State) : (setIrq b s).cfgHeight = s.cfgHeight := rfl
@[simp] theorem setIrq_cfgIdxBase (b : BitVec 3) (s : State) : (setIrq b s).cfgIdxBase = s.cfgIdxBase := rfl
@[simp] theorem setIrq_cfgFbBase (b : BitVec 3) (s : State) : (setIrq b s).cfgFbBase = s.cfgFbBase := rfl
@[simp] theorem setIrq_cfgOutBase (b : BitVec 3) (s : State) : (setIrq b s).cfgOutBase = s.cfgOutBase := rfl
@[simp] theorem setIrq_mem (b : BitVec 3) (s : State) : (setIrq b s).mem = s.mem := rfl
@[simp] theorem setIrq_port (b : BitVec 3) (s : State) : (setIrq b s).port = s.port := rfl
@[simp] theorem setIrq_portResponse (b : BitVec 3) (s : State) : (setIrq b s).portResponse = s.portResponse := rfl

/-! ### setSignal -/

@[simp] theorem setSignal_params (v : Word) (s : State) : (setSignal v s).params = s.params := rfl
@[simp] theorem setSignal_fifo (v : Word) (s : State) : (setSignal v s).fifo = s.fifo := rfl
@[simp] theorem setSignal_halted (v : Word) (s : State) : (setSignal v s).halted = s.halted := rfl
@[simp] theorem setSignal_cfgValid (v : Word) (s : State) : (setSignal v s).cfgValid = s.cfgValid := rfl
@[simp] theorem setSignal_errCode (v : Word) (s : State) : (setSignal v s).errCode = s.errCode := rfl
@[simp] theorem setSignal_errHeader (v : Word) (s : State) : (setSignal v s).errHeader = s.errHeader := rfl
@[simp] theorem setSignal_irqStatus (v : Word) (s : State) : (setSignal v s).irqStatus = s.irqStatus := rfl
@[simp] theorem setSignal_irqEnable (v : Word) (s : State) : (setSignal v s).irqEnable = s.irqEnable := rfl
@[simp] theorem setSignal_result (v : Word) (s : State) : (setSignal v s).result = s.result := rfl
@[simp] theorem setSignal_signal (v : Word) (s : State) : (setSignal v s).signal = v := rfl
@[simp] theorem setSignal_cmdCount (v : Word) (s : State) : (setSignal v s).cmdCount = s.cmdCount := rfl
@[simp] theorem setSignal_pal (v : Word) (s : State) : (setSignal v s).pal = s.pal := rfl
@[simp] theorem setSignal_cfgFactor (v : Word) (s : State) : (setSignal v s).cfgFactor = s.cfgFactor := rfl
@[simp] theorem setSignal_cfgWidth (v : Word) (s : State) : (setSignal v s).cfgWidth = s.cfgWidth := rfl
@[simp] theorem setSignal_cfgHeight (v : Word) (s : State) : (setSignal v s).cfgHeight = s.cfgHeight := rfl
@[simp] theorem setSignal_cfgIdxBase (v : Word) (s : State) : (setSignal v s).cfgIdxBase = s.cfgIdxBase := rfl
@[simp] theorem setSignal_cfgFbBase (v : Word) (s : State) : (setSignal v s).cfgFbBase = s.cfgFbBase := rfl
@[simp] theorem setSignal_cfgOutBase (v : Word) (s : State) : (setSignal v s).cfgOutBase = s.cfgOutBase := rfl
@[simp] theorem setSignal_mem (v : Word) (s : State) : (setSignal v s).mem = s.mem := rfl
@[simp] theorem setSignal_port (v : Word) (s : State) : (setSignal v s).port = s.port := rfl
@[simp] theorem setSignal_portResponse (v : Word) (s : State) : (setSignal v s).portResponse = s.portResponse := rfl

/-! ### invalidateConfig -/

@[simp] theorem invalidateConfig_params (s : State) : (invalidateConfig s).params = s.params := rfl
@[simp] theorem invalidateConfig_fifo (s : State) : (invalidateConfig s).fifo = s.fifo := rfl
@[simp] theorem invalidateConfig_halted (s : State) : (invalidateConfig s).halted = s.halted := rfl
@[simp] theorem invalidateConfig_cfgValid (s : State) : (invalidateConfig s).cfgValid = false := rfl
@[simp] theorem invalidateConfig_errCode (s : State) : (invalidateConfig s).errCode = s.errCode := rfl
@[simp] theorem invalidateConfig_errHeader (s : State) : (invalidateConfig s).errHeader = s.errHeader := rfl
@[simp] theorem invalidateConfig_irqStatus (s : State) : (invalidateConfig s).irqStatus = s.irqStatus := rfl
@[simp] theorem invalidateConfig_irqEnable (s : State) : (invalidateConfig s).irqEnable = s.irqEnable := rfl
@[simp] theorem invalidateConfig_result (s : State) : (invalidateConfig s).result = s.result := rfl
@[simp] theorem invalidateConfig_signal (s : State) : (invalidateConfig s).signal = s.signal := rfl
@[simp] theorem invalidateConfig_cmdCount (s : State) : (invalidateConfig s).cmdCount = s.cmdCount := rfl
@[simp] theorem invalidateConfig_pal (s : State) : (invalidateConfig s).pal = s.pal := rfl
@[simp] theorem invalidateConfig_cfgFactor (s : State) : (invalidateConfig s).cfgFactor = s.cfgFactor := rfl
@[simp] theorem invalidateConfig_cfgWidth (s : State) : (invalidateConfig s).cfgWidth = s.cfgWidth := rfl
@[simp] theorem invalidateConfig_cfgHeight (s : State) : (invalidateConfig s).cfgHeight = s.cfgHeight := rfl
@[simp] theorem invalidateConfig_cfgIdxBase (s : State) : (invalidateConfig s).cfgIdxBase = s.cfgIdxBase := rfl
@[simp] theorem invalidateConfig_cfgFbBase (s : State) : (invalidateConfig s).cfgFbBase = s.cfgFbBase := rfl
@[simp] theorem invalidateConfig_cfgOutBase (s : State) : (invalidateConfig s).cfgOutBase = s.cfgOutBase := rfl
@[simp] theorem invalidateConfig_mem (s : State) : (invalidateConfig s).mem = s.mem := rfl
@[simp] theorem invalidateConfig_port (s : State) : (invalidateConfig s).port = s.port := rfl
@[simp] theorem invalidateConfig_portResponse (s : State) : (invalidateConfig s).portResponse = s.portResponse := rfl

/-! ### configure -/

@[simp] theorem configure_params (f w h bi bf bo : Nat) (s : State) : (configure f w h bi bf bo s).params = s.params := rfl
@[simp] theorem configure_fifo (f w h bi bf bo : Nat) (s : State) : (configure f w h bi bf bo s).fifo = s.fifo := rfl
@[simp] theorem configure_halted (f w h bi bf bo : Nat) (s : State) : (configure f w h bi bf bo s).halted = s.halted := rfl
@[simp] theorem configure_cfgValid (f w h bi bf bo : Nat) (s : State) : (configure f w h bi bf bo s).cfgValid = true := rfl
@[simp] theorem configure_errCode (f w h bi bf bo : Nat) (s : State) : (configure f w h bi bf bo s).errCode = s.errCode := rfl
@[simp] theorem configure_errHeader (f w h bi bf bo : Nat) (s : State) : (configure f w h bi bf bo s).errHeader = s.errHeader := rfl
@[simp] theorem configure_irqStatus (f w h bi bf bo : Nat) (s : State) : (configure f w h bi bf bo s).irqStatus = s.irqStatus := rfl
@[simp] theorem configure_irqEnable (f w h bi bf bo : Nat) (s : State) : (configure f w h bi bf bo s).irqEnable = s.irqEnable := rfl
@[simp] theorem configure_result (f w h bi bf bo : Nat) (s : State) : (configure f w h bi bf bo s).result = s.result := rfl
@[simp] theorem configure_signal (f w h bi bf bo : Nat) (s : State) : (configure f w h bi bf bo s).signal = s.signal := rfl
@[simp] theorem configure_cmdCount (f w h bi bf bo : Nat) (s : State) : (configure f w h bi bf bo s).cmdCount = s.cmdCount := rfl
@[simp] theorem configure_pal (f w h bi bf bo : Nat) (s : State) : (configure f w h bi bf bo s).pal = [] := rfl
@[simp] theorem configure_cfgFactor (f w h bi bf bo : Nat) (s : State) : (configure f w h bi bf bo s).cfgFactor = BitVec.ofNat 32 f := rfl
@[simp] theorem configure_cfgWidth (f w h bi bf bo : Nat) (s : State) : (configure f w h bi bf bo s).cfgWidth = BitVec.ofNat 32 w := rfl
@[simp] theorem configure_cfgHeight (f w h bi bf bo : Nat) (s : State) : (configure f w h bi bf bo s).cfgHeight = BitVec.ofNat 32 h := rfl
@[simp] theorem configure_cfgIdxBase (f w h bi bf bo : Nat) (s : State) : (configure f w h bi bf bo s).cfgIdxBase = BitVec.ofNat 32 bi := rfl
@[simp] theorem configure_cfgFbBase (f w h bi bf bo : Nat) (s : State) : (configure f w h bi bf bo s).cfgFbBase = BitVec.ofNat 32 bf := rfl
@[simp] theorem configure_cfgOutBase (f w h bi bf bo : Nat) (s : State) : (configure f w h bi bf bo s).cfgOutBase = BitVec.ofNat 32 bo := rfl
@[simp] theorem configure_mem (f w h bi bf bo : Nat) (s : State) : (configure f w h bi bf bo s).mem = s.mem := rfl
@[simp] theorem configure_port (f w h bi bf bo : Nat) (s : State) : (configure f w h bi bf bo s).port = s.port := rfl
@[simp] theorem configure_portResponse (f w h bi bf bo : Nat) (s : State) : (configure f w h bi bf bo s).portResponse = s.portResponse := rfl

/-! ### flushFifo -/

@[simp] theorem flushFifo_params (s : State) : (flushFifo s).params = s.params := rfl
@[simp] theorem flushFifo_fifo (s : State) : (flushFifo s).fifo = [] := rfl
@[simp] theorem flushFifo_halted (s : State) : (flushFifo s).halted = s.halted := rfl
@[simp] theorem flushFifo_cfgValid (s : State) : (flushFifo s).cfgValid = s.cfgValid := rfl
@[simp] theorem flushFifo_errCode (s : State) : (flushFifo s).errCode = s.errCode := rfl
@[simp] theorem flushFifo_errHeader (s : State) : (flushFifo s).errHeader = s.errHeader := rfl
@[simp] theorem flushFifo_irqStatus (s : State) : (flushFifo s).irqStatus = s.irqStatus := rfl
@[simp] theorem flushFifo_irqEnable (s : State) : (flushFifo s).irqEnable = s.irqEnable := rfl
@[simp] theorem flushFifo_result (s : State) : (flushFifo s).result = s.result := rfl
@[simp] theorem flushFifo_signal (s : State) : (flushFifo s).signal = s.signal := rfl
@[simp] theorem flushFifo_cmdCount (s : State) : (flushFifo s).cmdCount = s.cmdCount := rfl
@[simp] theorem flushFifo_pal (s : State) : (flushFifo s).pal = s.pal := rfl
@[simp] theorem flushFifo_cfgFactor (s : State) : (flushFifo s).cfgFactor = s.cfgFactor := rfl
@[simp] theorem flushFifo_cfgWidth (s : State) : (flushFifo s).cfgWidth = s.cfgWidth := rfl
@[simp] theorem flushFifo_cfgHeight (s : State) : (flushFifo s).cfgHeight = s.cfgHeight := rfl
@[simp] theorem flushFifo_cfgIdxBase (s : State) : (flushFifo s).cfgIdxBase = s.cfgIdxBase := rfl
@[simp] theorem flushFifo_cfgFbBase (s : State) : (flushFifo s).cfgFbBase = s.cfgFbBase := rfl
@[simp] theorem flushFifo_cfgOutBase (s : State) : (flushFifo s).cfgOutBase = s.cfgOutBase := rfl
@[simp] theorem flushFifo_mem (s : State) : (flushFifo s).mem = s.mem := rfl
@[simp] theorem flushFifo_port (s : State) : (flushFifo s).port = s.port := rfl
@[simp] theorem flushFifo_portResponse (s : State) : (flushFifo s).portResponse = s.portResponse := rfl

/-! ### respond -/

@[simp] theorem respond_params (d : Word) (b : Bool) (s : State) : (respond d b s).params = s.params := rfl
@[simp] theorem respond_fifo (d : Word) (b : Bool) (s : State) : (respond d b s).fifo = s.fifo := rfl
@[simp] theorem respond_halted (d : Word) (b : Bool) (s : State) : (respond d b s).halted = s.halted := rfl
@[simp] theorem respond_cfgValid (d : Word) (b : Bool) (s : State) : (respond d b s).cfgValid = s.cfgValid := rfl
@[simp] theorem respond_errCode (d : Word) (b : Bool) (s : State) : (respond d b s).errCode = s.errCode := rfl
@[simp] theorem respond_errHeader (d : Word) (b : Bool) (s : State) : (respond d b s).errHeader = s.errHeader := rfl
@[simp] theorem respond_irqStatus (d : Word) (b : Bool) (s : State) : (respond d b s).irqStatus = s.irqStatus := rfl
@[simp] theorem respond_irqEnable (d : Word) (b : Bool) (s : State) : (respond d b s).irqEnable = s.irqEnable := rfl
@[simp] theorem respond_result (d : Word) (b : Bool) (s : State) : (respond d b s).result = s.result := rfl
@[simp] theorem respond_signal (d : Word) (b : Bool) (s : State) : (respond d b s).signal = s.signal := rfl
@[simp] theorem respond_cmdCount (d : Word) (b : Bool) (s : State) : (respond d b s).cmdCount = s.cmdCount := rfl
@[simp] theorem respond_pal (d : Word) (b : Bool) (s : State) : (respond d b s).pal = s.pal := rfl
@[simp] theorem respond_cfgFactor (d : Word) (b : Bool) (s : State) : (respond d b s).cfgFactor = s.cfgFactor := rfl
@[simp] theorem respond_cfgWidth (d : Word) (b : Bool) (s : State) : (respond d b s).cfgWidth = s.cfgWidth := rfl
@[simp] theorem respond_cfgHeight (d : Word) (b : Bool) (s : State) : (respond d b s).cfgHeight = s.cfgHeight := rfl
@[simp] theorem respond_cfgIdxBase (d : Word) (b : Bool) (s : State) : (respond d b s).cfgIdxBase = s.cfgIdxBase := rfl
@[simp] theorem respond_cfgFbBase (d : Word) (b : Bool) (s : State) : (respond d b s).cfgFbBase = s.cfgFbBase := rfl
@[simp] theorem respond_cfgOutBase (d : Word) (b : Bool) (s : State) : (respond d b s).cfgOutBase = s.cfgOutBase := rfl
@[simp] theorem respond_mem (d : Word) (b : Bool) (s : State) : (respond d b s).mem = s.mem := rfl
@[simp] theorem respond_port (d : Word) (b : Bool) (s : State) : (respond d b s).port = s.port := rfl
@[simp] theorem respond_portResponse (d : Word) (b : Bool) (s : State) : (respond d b s).portResponse = some ⟨d, b⟩ := rfl

/-! ### writeIrqStatus -/

@[simp] theorem writeIrqStatus_params (v : Word) (s : State) : (writeIrqStatus v s).params = s.params := rfl
@[simp] theorem writeIrqStatus_fifo (v : Word) (s : State) : (writeIrqStatus v s).fifo = s.fifo := rfl
@[simp] theorem writeIrqStatus_halted (v : Word) (s : State) : (writeIrqStatus v s).halted = s.halted := rfl
@[simp] theorem writeIrqStatus_cfgValid (v : Word) (s : State) : (writeIrqStatus v s).cfgValid = s.cfgValid := rfl
@[simp] theorem writeIrqStatus_errCode (v : Word) (s : State) : (writeIrqStatus v s).errCode = s.errCode := rfl
@[simp] theorem writeIrqStatus_errHeader (v : Word) (s : State) : (writeIrqStatus v s).errHeader = s.errHeader := rfl
@[simp] theorem writeIrqStatus_irqStatus (v : Word) (s : State) : (writeIrqStatus v s).irqStatus = s.irqStatus &&& ~~~(v.extractLsb' 0 3) := rfl
@[simp] theorem writeIrqStatus_irqEnable (v : Word) (s : State) : (writeIrqStatus v s).irqEnable = s.irqEnable := rfl
@[simp] theorem writeIrqStatus_result (v : Word) (s : State) : (writeIrqStatus v s).result = s.result := rfl
@[simp] theorem writeIrqStatus_signal (v : Word) (s : State) : (writeIrqStatus v s).signal = s.signal := rfl
@[simp] theorem writeIrqStatus_cmdCount (v : Word) (s : State) : (writeIrqStatus v s).cmdCount = s.cmdCount := rfl
@[simp] theorem writeIrqStatus_pal (v : Word) (s : State) : (writeIrqStatus v s).pal = s.pal := rfl
@[simp] theorem writeIrqStatus_cfgFactor (v : Word) (s : State) : (writeIrqStatus v s).cfgFactor = s.cfgFactor := rfl
@[simp] theorem writeIrqStatus_cfgWidth (v : Word) (s : State) : (writeIrqStatus v s).cfgWidth = s.cfgWidth := rfl
@[simp] theorem writeIrqStatus_cfgHeight (v : Word) (s : State) : (writeIrqStatus v s).cfgHeight = s.cfgHeight := rfl
@[simp] theorem writeIrqStatus_cfgIdxBase (v : Word) (s : State) : (writeIrqStatus v s).cfgIdxBase = s.cfgIdxBase := rfl
@[simp] theorem writeIrqStatus_cfgFbBase (v : Word) (s : State) : (writeIrqStatus v s).cfgFbBase = s.cfgFbBase := rfl
@[simp] theorem writeIrqStatus_cfgOutBase (v : Word) (s : State) : (writeIrqStatus v s).cfgOutBase = s.cfgOutBase := rfl
@[simp] theorem writeIrqStatus_mem (v : Word) (s : State) : (writeIrqStatus v s).mem = s.mem := rfl
@[simp] theorem writeIrqStatus_port (v : Word) (s : State) : (writeIrqStatus v s).port = s.port := rfl
@[simp] theorem writeIrqStatus_portResponse (v : Word) (s : State) : (writeIrqStatus v s).portResponse = s.portResponse := rfl

/-! ### writeIrqEnable -/

@[simp] theorem writeIrqEnable_params (v : Word) (s : State) : (writeIrqEnable v s).params = s.params := rfl
@[simp] theorem writeIrqEnable_fifo (v : Word) (s : State) : (writeIrqEnable v s).fifo = s.fifo := rfl
@[simp] theorem writeIrqEnable_halted (v : Word) (s : State) : (writeIrqEnable v s).halted = s.halted := rfl
@[simp] theorem writeIrqEnable_cfgValid (v : Word) (s : State) : (writeIrqEnable v s).cfgValid = s.cfgValid := rfl
@[simp] theorem writeIrqEnable_errCode (v : Word) (s : State) : (writeIrqEnable v s).errCode = s.errCode := rfl
@[simp] theorem writeIrqEnable_errHeader (v : Word) (s : State) : (writeIrqEnable v s).errHeader = s.errHeader := rfl
@[simp] theorem writeIrqEnable_irqStatus (v : Word) (s : State) : (writeIrqEnable v s).irqStatus = s.irqStatus := rfl
@[simp] theorem writeIrqEnable_irqEnable (v : Word) (s : State) : (writeIrqEnable v s).irqEnable = v.extractLsb' 0 3 := rfl
@[simp] theorem writeIrqEnable_result (v : Word) (s : State) : (writeIrqEnable v s).result = s.result := rfl
@[simp] theorem writeIrqEnable_signal (v : Word) (s : State) : (writeIrqEnable v s).signal = s.signal := rfl
@[simp] theorem writeIrqEnable_cmdCount (v : Word) (s : State) : (writeIrqEnable v s).cmdCount = s.cmdCount := rfl
@[simp] theorem writeIrqEnable_pal (v : Word) (s : State) : (writeIrqEnable v s).pal = s.pal := rfl
@[simp] theorem writeIrqEnable_cfgFactor (v : Word) (s : State) : (writeIrqEnable v s).cfgFactor = s.cfgFactor := rfl
@[simp] theorem writeIrqEnable_cfgWidth (v : Word) (s : State) : (writeIrqEnable v s).cfgWidth = s.cfgWidth := rfl
@[simp] theorem writeIrqEnable_cfgHeight (v : Word) (s : State) : (writeIrqEnable v s).cfgHeight = s.cfgHeight := rfl
@[simp] theorem writeIrqEnable_cfgIdxBase (v : Word) (s : State) : (writeIrqEnable v s).cfgIdxBase = s.cfgIdxBase := rfl
@[simp] theorem writeIrqEnable_cfgFbBase (v : Word) (s : State) : (writeIrqEnable v s).cfgFbBase = s.cfgFbBase := rfl
@[simp] theorem writeIrqEnable_cfgOutBase (v : Word) (s : State) : (writeIrqEnable v s).cfgOutBase = s.cfgOutBase := rfl
@[simp] theorem writeIrqEnable_mem (v : Word) (s : State) : (writeIrqEnable v s).mem = s.mem := rfl
@[simp] theorem writeIrqEnable_port (v : Word) (s : State) : (writeIrqEnable v s).port = s.port := rfl
@[simp] theorem writeIrqEnable_portResponse (v : Word) (s : State) : (writeIrqEnable v s).portResponse = s.portResponse := rfl

/-! ### resetBlock -/

@[simp] theorem resetBlock_params (s : State) : (resetBlock s).params = s.params := rfl
@[simp] theorem resetBlock_fifo (s : State) : (resetBlock s).fifo = [] := rfl
@[simp] theorem resetBlock_halted (s : State) : (resetBlock s).halted = false := rfl
@[simp] theorem resetBlock_cfgValid (s : State) : (resetBlock s).cfgValid = false := rfl
@[simp] theorem resetBlock_errCode (s : State) : (resetBlock s).errCode = 0 := rfl
@[simp] theorem resetBlock_errHeader (s : State) : (resetBlock s).errHeader = 0 := rfl
@[simp] theorem resetBlock_irqStatus (s : State) : (resetBlock s).irqStatus = 0 := rfl
@[simp] theorem resetBlock_irqEnable (s : State) : (resetBlock s).irqEnable = 0 := rfl
@[simp] theorem resetBlock_result (s : State) : (resetBlock s).result = 0 := rfl
@[simp] theorem resetBlock_signal (s : State) : (resetBlock s).signal = 0 := rfl
@[simp] theorem resetBlock_cmdCount (s : State) : (resetBlock s).cmdCount = 0 := rfl
@[simp] theorem resetBlock_pal (s : State) : (resetBlock s).pal = [] := rfl
@[simp] theorem resetBlock_cfgFactor (s : State) : (resetBlock s).cfgFactor = 0 := rfl
@[simp] theorem resetBlock_cfgWidth (s : State) : (resetBlock s).cfgWidth = 0 := rfl
@[simp] theorem resetBlock_cfgHeight (s : State) : (resetBlock s).cfgHeight = 0 := rfl
@[simp] theorem resetBlock_cfgIdxBase (s : State) : (resetBlock s).cfgIdxBase = 0 := rfl
@[simp] theorem resetBlock_cfgFbBase (s : State) : (resetBlock s).cfgFbBase = 0 := rfl
@[simp] theorem resetBlock_cfgOutBase (s : State) : (resetBlock s).cfgOutBase = 0 := rfl
@[simp] theorem resetBlock_mem (s : State) : (resetBlock s).mem = s.mem := rfl
@[simp] theorem resetBlock_port (s : State) : (resetBlock s).port = s.port := rfl
@[simp] theorem resetBlock_portResponse (s : State) : (resetBlock s).portResponse = s.portResponse := rfl

/-! ### powerOn -/

@[simp] theorem powerOn_params (p : Params) (m : Memory) : (State.powerOn p m).params = p := rfl
@[simp] theorem powerOn_fifo (p : Params) (m : Memory) : (State.powerOn p m).fifo = [] := rfl
@[simp] theorem powerOn_halted (p : Params) (m : Memory) : (State.powerOn p m).halted = false := rfl
@[simp] theorem powerOn_cfgValid (p : Params) (m : Memory) : (State.powerOn p m).cfgValid = false := rfl
@[simp] theorem powerOn_errCode (p : Params) (m : Memory) : (State.powerOn p m).errCode = 0 := rfl
@[simp] theorem powerOn_errHeader (p : Params) (m : Memory) : (State.powerOn p m).errHeader = 0 := rfl
@[simp] theorem powerOn_irqStatus (p : Params) (m : Memory) : (State.powerOn p m).irqStatus = 0 := rfl
@[simp] theorem powerOn_irqEnable (p : Params) (m : Memory) : (State.powerOn p m).irqEnable = 0 := rfl
@[simp] theorem powerOn_result (p : Params) (m : Memory) : (State.powerOn p m).result = 0 := rfl
@[simp] theorem powerOn_signal (p : Params) (m : Memory) : (State.powerOn p m).signal = 0 := rfl
@[simp] theorem powerOn_cmdCount (p : Params) (m : Memory) : (State.powerOn p m).cmdCount = 0 := rfl
@[simp] theorem powerOn_pal (p : Params) (m : Memory) : (State.powerOn p m).pal = [] := rfl
@[simp] theorem powerOn_cfgFactor (p : Params) (m : Memory) : (State.powerOn p m).cfgFactor = 0 := rfl
@[simp] theorem powerOn_cfgWidth (p : Params) (m : Memory) : (State.powerOn p m).cfgWidth = 0 := rfl
@[simp] theorem powerOn_cfgHeight (p : Params) (m : Memory) : (State.powerOn p m).cfgHeight = 0 := rfl
@[simp] theorem powerOn_cfgIdxBase (p : Params) (m : Memory) : (State.powerOn p m).cfgIdxBase = 0 := rfl
@[simp] theorem powerOn_cfgFbBase (p : Params) (m : Memory) : (State.powerOn p m).cfgFbBase = 0 := rfl
@[simp] theorem powerOn_cfgOutBase (p : Params) (m : Memory) : (State.powerOn p m).cfgOutBase = 0 := rfl
@[simp] theorem powerOn_mem (p : Params) (m : Memory) : (State.powerOn p m).mem = m := rfl
@[simp] theorem powerOn_port (p : Params) (m : Memory) : (State.powerOn p m).port = [] := rfl
@[simp] theorem powerOn_portResponse (p : Params) (m : Memory) : (State.powerOn p m).portResponse = none := rfl

/-! ### Updates that agree -/

@[simp] theorem setMem_setMem (s : State) (m m' : Memory) : setMem (setMem s m) m' = setMem s m' := rfl
@[simp] theorem setFifo_setFifo (s : State) (w w' : List Word) : setFifo (setFifo s w) w' = setFifo s w' := rfl
@[simp] theorem setMem_self (s : State) : setMem s s.mem = s := rfl
@[simp] theorem setFifo_self (s : State) : setFifo s s.fifo = s := rfl
@[simp] theorem setPort_self (s : State) : setPort s s.port = s := rfl

end Sys2Proof.Machine
end

