-- ==== Sys2Proof/Laws/Pixel.lean ====
section
/-! SUPPORT. Grids, the per-pixel write and the loops over pixels: what each leaves in every pixel of its target, that it
writes nothing else, and that it keeps pixel memory in order. -/

namespace Sys2Proof.Machine

/-! ### Grids (rule R68) -/

theorem mem_grid {w h c r : Nat} : (c, r) ∈ grid w h ↔ c < w ∧ r < h := by
  simp only [grid, List.mem_map, List.mem_range, Prod.mk.injEq]
  constructor
  · rintro ⟨k, hk, rfl, rfl⟩
    have hw : 0 < w := Nat.pos_of_mul_pos_right (Nat.lt_of_le_of_lt (Nat.zero_le _) hk)
    exact ⟨Nat.mod_lt _ hw, Nat.div_lt_of_lt_mul hk⟩
  · rintro ⟨hc, hr⟩
    refine ⟨r * w + c, ?_, ?_, ?_⟩
    · calc r * w + c < r * w + w := by omega
        _ = (r + 1) * w := by ring
        _ ≤ h * w := Nat.mul_le_mul_right _ hr
        _ = w * h := Nat.mul_comm _ _
    · rw [Nat.add_comm, Nat.add_mul_mod_self_right, Nat.mod_eq_of_lt hc]
    · rw [Nat.add_comm, Nat.add_mul_div_right _ _ (by omega), Nat.div_eq_of_lt hc, Nat.zero_add]

/-- Element (c, r) lies inside its grid. -/
theorem gridIndex_lt {w h c r : Nat} (hc : c < w) (hr : r < h) : r * w + c < w * h := by
  calc r * w + c < r * w + w := by omega
    _ = (r + 1) * w := by ring
    _ ≤ h * w := Nat.mul_le_mul_right _ hr
    _ = w * h := Nat.mul_comm _ _

/-- Distinct positions have distinct row-major indices. -/
theorem gridIndex_inj {w c r c' r' : Nat} (hc : c < w) (hc' : c' < w) (h : r * w + c = r' * w + c') :
    c = c' ∧ r = r' := by
  have e : (r * w + c) % w = (r' * w + c') % w := by rw [h]
  rw [Nat.add_comm, Nat.add_mul_mod_self_right, Nat.mod_eq_of_lt hc, Nat.add_comm (r' * w),
    Nat.add_mul_mod_self_right, Nat.mod_eq_of_lt hc'] at e
  subst e
  have hw : r * w = r' * w := by omega
  exact ⟨rfl, Nat.eq_of_mul_eq_mul_right (by omega) hw⟩

/-- A grid visits every position once. -/
theorem grid_nodup (w h : Nat) : (grid w h).Nodup := by
  refine List.Nodup.map_on ?_ List.nodup_range
  intro k _ k' _ e
  simp only [Prod.mk.injEq] at e
  rw [← Nat.div_add_mod k w, ← Nat.div_add_mod k' w, e.1, e.2]

/-- The words of a grid are disjoint, in the order of the loop. -/
theorem grid_words_disjoint (b w h : Nat) :
    (grid w h).Pairwise fun p q =>
      wordGridAddr b w p.1 p.2 + 4 ≤ wordGridAddr b w q.1 q.2 ∨
        wordGridAddr b w q.1 q.2 + 4 ≤ wordGridAddr b w p.1 p.2 := by
  refine (grid_nodup w h).imp_of_mem ?_
  rintro ⟨c, r⟩ ⟨c', r'⟩ hp hq hne
  have h1 := (mem_grid.1 hp).1
  have h2 := (mem_grid.1 hq).1
  have : r * w + c ≠ r' * w + c' := fun e => hne (by
    obtain ⟨rfl, rfl⟩ := gridIndex_inj h1 h2 e; rfl)
  simp only [wordGridAddr]
  omega

/-- The word of a grid position lies inside the region of the grid. -/
theorem wordGridAddr_inside {b w h c r : Nat} (hc : c < w) (hr : r < h) :
    b ≤ wordGridAddr b w c r ∧ wordGridAddr b w c r + 4 ≤ b + 4 * (w * h) := by
  have := gridIndex_lt hc hr
  simp only [wordGridAddr]
  omega

/-- The byte of a grid position lies inside the region of the grid. -/
theorem byteGridAddr_inside {b w h c r : Nat} (hc : c < w) (hr : r < h) :
    b ≤ byteGridAddr b w c r ∧ byteGridAddr b w c r < b + w * h := by
  have := gridIndex_lt hc hr
  simp only [byteGridAddr]
  omega

/-- Words of two positions of one grid are the same word or disjoint. -/
theorem wordGridAddr_disjoint {b w c r c' r' : Nat} (hc : c < w) (hc' : c' < w) (h : ¬(c = c' ∧ r = r')) :
    wordGridAddr b w c r + 4 ≤ wordGridAddr b w c' r' ∨ wordGridAddr b w c' r' + 4 ≤ wordGridAddr b w c r := by
  have : r * w + c ≠ r' * w + c' := fun e => h (gridIndex_inj hc hc' e)
  simp only [wordGridAddr]
  omega

/-! ### Plot (rule R112) -/

theorem onCanvas_iff {cv : Canvas} {x y : Int} :
    onCanvas cv x y = true ↔ (0 ≤ x ∧ x < cv.width) ∧ 0 ≤ y ∧ y < cv.height := by
  simp [onCanvas, and_assoc]

/-- A clipped pixel changes nothing. -/
theorem plot_clipped {mode : DrawMode} {cv : Canvas} {x y : Int} (v : Word) (m : Memory)
    (h : onCanvas cv x y = false) : plot mode cv x y v m = m := by
  simp [plot, h]

theorem plot_wf {mode : DrawMode} {cv : Canvas} {x y : Int} {v : Word} {m : Memory}
    (hm : Memory.wf m = true) : Memory.wf (plot mode cv x y v m) = true := by
  unfold plot
  split
  · cases mode
    · exact writeWord_wf _ _ hm
    · exact writeWord_wf _ _ hm
    · exact writeByte_wf _ _ hm
  · exact hm

/-- A plot lists at most bytes of the mode's target buffer beside what was listed. -/
theorem mem_plot {mode : DrawMode} {cv : Canvas} {x y : Int} {v : Word} {m : Memory} {c : Host.Cell}
    (h : c ∈ plot mode cv x y v m) :
    ((targetRegion mode cv).1 ≤ c.1 ∧ c.1 < (targetRegion mode cv).1 + (targetRegion mode cv).2) ∨ c ∈ m := by
  unfold plot at h
  split at h
  · rename_i hon
    obtain ⟨⟨hx, hx'⟩, hy, hy'⟩ := onCanvas_iff.1 hon
    have hw := wordGridAddr_inside (b := cv.fbBase) (show x.toNat < cv.width by omega)
      (show y.toNat < cv.height by omega)
    have hb := byteGridAddr_inside (b := cv.idxBase) (show x.toNat < cv.width by omega)
      (show y.toNat < cv.height by omega)
    cases mode
    · rcases mem_writeWord h with h | h
      · exact .inl (by simp only [targetRegion]; omega)
      · exact .inr h
    · rcases mem_writeWord h with h | h
      · exact .inl (by simp only [targetRegion]; omega)
      · exact .inr h
    · rcases mem_writeByte h with h | h
      · exact .inl (by simp only [targetRegion]; omega)
      · exact .inr h
  · exact .inr h

/-- A plot writes no byte outside the mode's target buffer. -/
theorem readByte_plot_outside {mode : DrawMode} {cv : Canvas} {x y : Int} {v : Word} {m : Memory} {a : Nat}
    (ha : a < (targetRegion mode cv).1 ∨ (targetRegion mode cv).1 + (targetRegion mode cv).2 ≤ a) :
    readByte (plot mode cv x y v m) a = readByte m a := by
  unfold plot
  split
  · rename_i hon
    obtain ⟨⟨hx, hx'⟩, hy, hy'⟩ := onCanvas_iff.1 hon
    have hw := wordGridAddr_inside (b := cv.fbBase) (show x.toNat < cv.width by omega)
      (show y.toNat < cv.height by omega)
    have hb := byteGridAddr_inside (b := cv.idxBase) (show x.toNat < cv.width by omega)
      (show y.toNat < cv.height by omega)
    cases mode
    · exact readByte_writeWord_ne _ (by simp only [targetRegion] at ha; omega)
    · exact readByte_writeWord_ne _ (by simp only [targetRegion] at ha; omega)
    · exact readByte_writeByte_ne _ (by simp only [targetRegion] at ha; omega)
  · rfl

/-- What a replace or blend plot leaves in a framebuffer pixel. -/
theorem readWord_plot {mode : DrawMode} {cv : Canvas} {x y : Int} {v : Word} {m : Memory} {px py : Nat}
    (hmode : mode ≠ .index) (hm : Memory.wf m = true) (hx : px < cv.width) (hy : py < cv.height) :
    readWord (plot mode cv x y v m) (wordGridAddr cv.fbBase cv.width px py) =
      if x = px ∧ y = py then
        if mode = .blend then blend v (readWord m (wordGridAddr cv.fbBase cv.width px py)) else v
      else readWord m (wordGridAddr cv.fbBase cv.width px py) := by
  by_cases hon : onCanvas cv x y = true
  · obtain ⟨⟨h0, h1⟩, h2, h3⟩ := onCanvas_iff.1 hon
    by_cases he : x = px ∧ y = py
    · obtain ⟨rfl, rfl⟩ := he
      cases mode
      · simp [plot, hon, readWord_writeWord_self _ _ hm]
      · simp [plot, hon, readWord_writeWord_self _ _ hm]
      · exact absurd rfl hmode
    · have hd := wordGridAddr_disjoint (b := cv.fbBase) (c := px) (r := py) (c' := x.toNat) (r' := y.toNat) hx
        (show x.toNat < cv.width by omega) (by omega)
      rw [if_neg he]
      cases mode
      · simp only [plot, hon, if_true]; exact readWord_writeWord_ne _ hd
      · simp only [plot, hon, if_true]; exact readWord_writeWord_ne _ hd
      · exact absurd rfl hmode
  · have hoff : onCanvas cv x y = false := by simpa using hon
    rw [plot_clipped _ _ hoff, if_neg]
    rintro ⟨rfl, rfl⟩
    exact hon (onCanvas_iff.2 ⟨⟨by omega, by omega⟩, by omega, by omega⟩)

/-- What an index plot leaves in a pixel of the index buffer. -/
theorem readByte_plot_index {cv : Canvas} {x y : Int} {v : Word} {m : Memory} {px py : Nat}
    (hm : Memory.wf m = true) (hx : px < cv.width) (hy : py < cv.height) :
    readByte (plot .index cv x y v m) (byteGridAddr cv.idxBase cv.width px py) =
      if x = px ∧ y = py then indexOf v else readByte m (byteGridAddr cv.idxBase cv.width px py) := by
  by_cases hon : onCanvas cv x y = true
  · obtain ⟨⟨h0, h1⟩, h2, h3⟩ := onCanvas_iff.1 hon
    by_cases he : x = px ∧ y = py
    · obtain ⟨rfl, rfl⟩ := he
      simp [plot, hon, readByte_writeByte_self _ _ hm]
    · rw [if_neg he]
      simp only [plot, hon, if_true]
      refine readByte_writeByte_ne _ ?_
      have : ¬(py * cv.width + px = y.toNat * cv.width + x.toNat) := fun e => by
        have := gridIndex_inj hx (show x.toNat < cv.width by omega) e
        omega
      simp only [byteGridAddr]
      omega
  · have hoff : onCanvas cv x y = false := by simpa using hon
    rw [plot_clipped _ _ hoff, if_neg]
    rintro ⟨rfl, rfl⟩
    exact hon (onCanvas_iff.2 ⟨⟨by omega, by omega⟩, by omega, by omega⟩)

/-! ### Loops of plots of one value (rules R116, R118, R122, R124, R126) -/

theorem plotAll_cons (mode : DrawMode) (cv : Canvas) (v : Word) (p : Int × Int) (l : List (Int × Int))
    (m : Memory) : plotAll mode cv v (p :: l) m = plotAll mode cv v l (plot mode cv p.1 p.2 v m) := rfl

theorem plotAll_wf {mode : DrawMode} {cv : Canvas} {v : Word} (l : List (Int × Int)) :
    ∀ {m : Memory}, Memory.wf m = true → Memory.wf (plotAll mode cv v l m) = true := by
  induction l with
  | nil => exact fun h => h
  | cons p l ih => exact fun h => ih (plot_wf h)

theorem mem_plotAll {mode : DrawMode} {cv : Canvas} {v : Word} {c : Host.Cell} (l : List (Int × Int)) :
    ∀ {m : Memory}, c ∈ plotAll mode cv v l m →
      ((targetRegion mode cv).1 ≤ c.1 ∧ c.1 < (targetRegion mode cv).1 + (targetRegion mode cv).2) ∨ c ∈ m := by
  induction l with
  | nil => exact fun h => .inr h
  | cons p l ih =>
      intro m h
      rcases ih h with h | h
      · exact .inl h
      · exact mem_plot h

theorem readByte_plotAll_outside {mode : DrawMode} {cv : Canvas} {v : Word} {a : Nat}
    (ha : a < (targetRegion mode cv).1 ∨ (targetRegion mode cv).1 + (targetRegion mode cv).2 ≤ a)
    (l : List (Int × Int)) : ∀ m, readByte (plotAll mode cv v l m) a = readByte m a := by
  induction l with
  | nil => exact fun m => rfl
  | cons p l ih => intro m; rw [plotAll_cons, ih, readByte_plot_outside ha]

/-- A list of pixels that are all clipped changes nothing. -/
theorem plotAll_clipped {mode : DrawMode} {cv : Canvas} {v : Word} (l : List (Int × Int))
    (h : ∀ p ∈ l, onCanvas cv p.1 p.2 = false) : ∀ m, plotAll mode cv v l m = m := by
  induction l with
  | nil => exact fun m => rfl
  | cons p l ih =>
      intro m
      rw [plotAll_cons, plot_clipped _ _ (h p List.mem_cons_self)]
      exact ih (fun q hq => h q (List.mem_cons_of_mem _ hq)) m

/-- A replace loop leaves the value in every listed pixel of the framebuffer and every other pixel as it was. -/
theorem readWord_plotAll_replace {cv : Canvas} {v : Word} {px py : Nat} (hx : px < cv.width)
    (hy : py < cv.height) (l : List (Int × Int)) : ∀ {m : Memory}, Memory.wf m = true →
      readWord (plotAll .replace cv v l m) (wordGridAddr cv.fbBase cv.width px py) =
        if ((px : Int), (py : Int)) ∈ l then v else readWord m (wordGridAddr cv.fbBase cv.width px py) := by
  induction l with
  | nil => intro m _; simp [plotAll]
  | cons p l ih =>
      intro m hm
      obtain ⟨x, y⟩ := p
      rw [plotAll_cons, ih (plot_wf hm), readWord_plot (by simp) hm hx hy]
      by_cases h1 : ((px : Int), (py : Int)) ∈ l
      · simp [h1]
      · by_cases h2 : x = px ∧ y = py
        · obtain ⟨rfl, rfl⟩ := h2
          simp
        · have h3 : ¬(((px : Int), (py : Int)) = (x, y)) := fun e => h2 (by
            obtain ⟨h, h'⟩ := Prod.mk.injEq _ _ _ _ ▸ e
            exact ⟨h.symm, h'.symm⟩)
          rw [if_neg h1, if_neg h2, if_neg]
          rw [List.mem_cons]
          exact fun h => h.elim h3 h1

/-- A blend loop composes the value over a framebuffer pixel once for each time the pixel is listed. -/
theorem readWord_plotAll_blend {cv : Canvas} {v : Word} {px py : Nat} (hx : px < cv.width)
    (hy : py < cv.height) (l : List (Int × Int)) : ∀ {m : Memory}, Memory.wf m = true →
      readWord (plotAll .blend cv v l m) (wordGridAddr cv.fbBase cv.width px py) =
        (blend v)^[l.count ((px : Int), (py : Int))] (readWord m (wordGridAddr cv.fbBase cv.width px py)) := by
  induction l with
  | nil => intro m _; simp [plotAll]
  | cons p l ih =>
      intro m hm
      obtain ⟨x, y⟩ := p
      rw [plotAll_cons, ih (plot_wf hm), readWord_plot (by simp) hm hx hy, List.count_cons]
      by_cases h2 : x = px ∧ y = py
      · obtain ⟨rfl, rfl⟩ := h2
        simp [Function.iterate_succ_apply]
      · have h3 : ((x, y) == ((px : Int), (py : Int))) = false := by
          rw [beq_eq_false_iff_ne]
          exact fun e => h2 (Prod.mk.injEq _ _ _ _ ▸ e)
        simp [h2, h3]

/-- An index loop leaves the index in every listed pixel of the index buffer and every other pixel as it was. -/
theorem readByte_plotAll_index {cv : Canvas} {v : Word} {px py : Nat} (hx : px < cv.width)
    (hy : py < cv.height) (l : List (Int × Int)) : ∀ {m : Memory}, Memory.wf m = true →
      readByte (plotAll .index cv v l m) (byteGridAddr cv.idxBase cv.width px py) =
        if ((px : Int), (py : Int)) ∈ l then indexOf v
        else readByte m (byteGridAddr cv.idxBase cv.width px py) := by
  induction l with
  | nil => intro m _; simp [plotAll]
  | cons p l ih =>
      intro m hm
      obtain ⟨x, y⟩ := p
      rw [plotAll_cons, ih (plot_wf hm), readByte_plot_index hm hx hy]
      by_cases h1 : ((px : Int), (py : Int)) ∈ l
      · simp [h1]
      · by_cases h2 : x = px ∧ y = py
        · obtain ⟨rfl, rfl⟩ := h2
          simp
        · have h3 : ¬(((px : Int), (py : Int)) = (x, y)) := fun e => h2 (by
            obtain ⟨h, h'⟩ := Prod.mk.injEq _ _ _ _ ▸ e
            exact ⟨h.symm, h'.symm⟩)
          rw [if_neg h1, if_neg h2, if_neg]
          rw [List.mem_cons]
          exact fun h => h.elim h3 h1

end Sys2Proof.Machine
end

