-- ==== Sys2Proof/Laws/Commands.lean ====
section
/-! SUPPORT. The shared ends of a command, the checks (what each means when it finds no error), and the loops of CLEAR,
CONVERT, UPSCALE, BLIT and LIGHT. -/

namespace Sys2Proof.Machine

/-! ### Ends of a command -/

@[simp] theorem finishCommand_none (h : Word) (f : State → State) (s : State) :
    finishCommand h none f s = .next (countCommand (f s)) := rfl

@[simp] theorem finishCommand_some (h : Word) (e : CommandError) (f : State → State) (s : State) :
    finishCommand h (some e) f s = .next (raiseError e h s) := rfl

/-- A command that does not draw always ends in a next state: it raised, or it made its writes and counted. -/
theorem finishCommand_next {h : Word} {err : Option CommandError} {f : State → State} {s t : State}
    (ht : finishCommand h err f s = .next t) :
    (∃ e, err = some e ∧ t = raiseError e h s) ∨ (err = none ∧ t = countCommand (f s)) := by
  cases err with
  | none => exact .inr ⟨rfl, by simpa using ht.symm⟩
  | some e => exact .inl ⟨e, rfl, by simpa using ht.symm⟩

@[simp] theorem drawCommand_some (h : Word) (e : CommandError) (mode : DrawMode) (d : Canvas → Memory → Memory)
    (s : State) : drawCommand h (some e) mode d s = .next (raiseError e h s) := by
  simp [drawCommand]

/-- A drawing command whose checks pass draws on pixel memory and counts. -/
theorem drawCommand_none {h : Word} {mode : DrawMode} {d : Canvas → Memory → Memory} {s : State}
    (hin : targetInside mode s = true) :
    drawCommand h none mode d s = .next (countCommand (setMem s (d (canvas s) s.mem))) := by
  simp [drawCommand, hin]

/-- Everything a drawing command can do. -/
theorem drawCommand_cases (h : Word) (err : Option CommandError) (mode : DrawMode) (d : Canvas → Memory → Memory)
    (s : State) :
    (∃ e, err = some e ∧ drawCommand h err mode d s = .next (raiseError e h s)) ∨
    (err = none ∧ targetInside mode s = true ∧
      drawCommand h err mode d s = .next (countCommand (setMem s (d (canvas s) s.mem)))) ∨
    (err = none ∧ targetInside mode s = false ∧ drawCommand h err mode d s = .fault .bufferOutsidePmem) := by
  cases err with
  | some e => exact .inl ⟨e, rfl, drawCommand_some ..⟩
  | none =>
      cases hin : targetInside mode s
      · exact .inr (.inr ⟨rfl, rfl, by simp [drawCommand, hin]⟩)
      · exact .inr (.inl ⟨rfl, rfl, drawCommand_none hin⟩)

/-! ### Regions -/

theorem regionInside_iff {size b n : Nat} : regionInside size b n = true ↔ n = 0 ∨ b + n ≤ size := by
  simp [regionInside]

/-- Regions that do not overlap share no byte. -/
theorem regionsOverlap_false {b1 n1 b2 n2 : Nat} :
    regionsOverlap b1 n1 b2 n2 = false ↔ n1 = 0 ∨ n2 = 0 ∨ b2 + n2 ≤ b1 ∨ b1 + n1 ≤ b2 := by
  rw [← Bool.not_eq_true]
  simp only [regionsOverlap, Bool.and_eq_true, decide_eq_true_eq]
  omega

theorem wordAligned_iff {b : Nat} : wordAligned b = true ↔ b % 4 = 0 := by simp [wordAligned]

theorem legalFactor_iff {f : Nat} : legalFactor f = true ↔ f = 1 ∨ f = 2 ∨ f = 4 ∨ f = 8 := by
  simp [legalFactor, or_assoc]

/-- The target of every mode is inside PMEM under a legal configuration (rule R62). -/
theorem targetInside_of_config {s : State} (hc : ConfigOk s) (mode : DrawMode) : targetInside mode s = true := by
  have h1 := hc.idx_inside
  have h2 := hc.fb_inside
  simp only [idxBytes, fbBytes] at h1 h2
  cases mode <;> simp [targetInside, targetRegion, canvas, regionInside_iff, h1, h2]

/-! ### Checks that find no error -/

theorem rasterError_none {mode : DrawMode} {v : Word} {s : State} :
    rasterError mode v s = none ↔ s.cfgValid = true ∧ (mode = .index → indexReserved v = 0#24) := by
  unfold rasterError
  cases s.cfgValid <;> cases mode <;> simp

theorem convertError_none {dst src n : Nat} {s : State} :
    convertError dst src n s = none ↔
      dst % 4 = 0 ∧ (n = 0 ∨ (src + n ≤ s.params.pmemSize ∧ dst + 4 * n ≤ s.params.pmemSize)) ∧
        (n = 0 ∨ dst + 4 * n ≤ src ∨ src + n ≤ dst) := by
  unfold convertError
  by_cases h1 : wordAligned dst = true
  · by_cases h2 : regionInside s.params.pmemSize src n = true
    · by_cases h3 : regionInside s.params.pmemSize dst (4 * n) = true
      · cases h4 : regionsOverlap src n dst (4 * n)
        · rw [regionsOverlap_false] at h4
          rw [regionInside_iff] at h2 h3
          rw [wordAligned_iff] at h1
          simp [wordAligned, regionInside, h1]
          omega
        · have h4' : ¬(regionsOverlap src n dst (4 * n) = false) := by simp [h4]
          rw [regionsOverlap_false] at h4'
          simp [h1, h2, h3]
          omega
      · simp [h1, h2, h3]
        rw [regionInside_iff] at h3
        omega
    · simp [h1, h2]
      rw [regionInside_iff] at h2
      omega
  · simp [h1]
    rw [wordAligned_iff] at h1
    omega

theorem upscaleError_none {dst src w h f : Nat} {s : State} :
    upscaleError dst src w h f s = none ↔
      legalFactor f = true ∧ wordAligned dst = true ∧ wordAligned src = true ∧
        regionInside s.params.pmemSize src (4 * w * h) = true ∧
        regionInside s.params.pmemSize dst (4 * w * h * f * f) = true ∧
        regionsOverlap src (4 * w * h) dst (4 * w * h * f * f) = false := by
  unfold upscaleError
  cases legalFactor f <;> cases wordAligned dst <;> cases wordAligned src <;>
    cases regionInside s.params.pmemSize src (4 * w * h) <;>
    cases regionInside s.params.pmemSize dst (4 * w * h * f * f) <;>
    cases regionsOverlap src (4 * w * h) dst (4 * w * h * f * f) <;> simp

theorem spriteError_none {sb sw sh : Nat} {s : State} :
    spriteError sb sw sh s = none ↔
      wordAligned sb = true ∧ regionInside s.params.pmemSize sb (4 * sw * sh) = true ∧
        regionsOverlap sb (4 * sw * sh) s.cfgFbBase.toNat (4 * s.cfgWidth.toNat * s.cfgHeight.toNat) = false := by
  unfold spriteError
  cases wordAligned sb <;> cases regionInside s.params.pmemSize sb (4 * sw * sh) <;>
    cases regionsOverlap sb (4 * sw * sh) s.cfgFbBase.toNat (4 * s.cfgWidth.toNat * s.cfgHeight.toNat) <;> simp

theorem blitError_none {sb sw sh : Nat} {s : State} :
    blitError sb sw sh s = none ↔ s.cfgValid = true ∧ spriteError sb sw sh s = none := by
  unfold blitError
  cases s.cfgValid <;> simp

theorem lightError_none {sb sw sh : Nat} {ie am : Word} {s : State} :
    lightError sb sw sh ie am s = none ↔
      s.cfgValid = true ∧ (enableReserved ie = 0#15 ∧ ambientReserved am = 0#16) ∧ spriteError sb sw sh s = none := by
  unfold lightError
  cases s.cfgValid
  · simp
  · by_cases h : enableReserved ie ≠ 0#15 ∨ ambientReserved am ≠ 0#16
    · simp only [Bool.not_true, Bool.false_eq_true, if_false, if_pos h]
      constructor
      · intro h'; cases h'
      · rintro ⟨_, ⟨h1, h2⟩, _⟩; exact absurd h (by simp [h1, h2])
    · have h' : enableReserved ie = 0#15 ∧ ambientReserved am = 0#16 := by
        simpa only [not_or, not_not, ne_eq] using h
      simp [h'.1, h'.2]

theorem initError_none {f w h bi bf bo : Nat} {s : State} :
    initError f w h bi bf bo s = none ↔
      legalFactor f = true ∧ (s.params.minDim ≤ w ∧ s.params.minDim ≤ h) ∧ (w % 4 = 0 ∧ h % 4 = 0) ∧
        (wordAligned bi = true ∧ wordAligned bf = true ∧ wordAligned bo = true) ∧
        (regionInside s.params.pmemSize bi (w * h) = true ∧ regionInside s.params.pmemSize bf (4 * w * h) = true ∧
          regionInside s.params.pmemSize bo (4 * w * h * f * f) = true) ∧
        buffersOverlap f w h bi bf bo = false := by
  unfold initError
  cases legalFactor f
  · simp
  by_cases h1 : w < s.params.minDim ∨ h < s.params.minDim
  · have : ¬(s.params.minDim ≤ w ∧ s.params.minDim ≤ h) := by omega
    simp [h1, this]
  have h1' : s.params.minDim ≤ w ∧ s.params.minDim ≤ h := by omega
  by_cases h2 : w % 4 = 0 ∧ h % 4 = 0
  · cases wordAligned bi <;> cases wordAligned bf <;> cases wordAligned bo <;>
      cases regionInside s.params.pmemSize bi (w * h) <;> cases regionInside s.params.pmemSize bf (4 * w * h) <;>
      cases regionInside s.params.pmemSize bo (4 * w * h * f * f) <;> cases buffersOverlap f w h bi bf bo <;>
      simp [h1, h1', h2]
  · have h2' : w % 4 ≠ 0 ∨ h % 4 ≠ 0 := by omega
    simp only [Bool.not_true, Bool.false_eq_true, if_false, Bool.or_eq_true, decide_eq_true_eq, if_neg h1,
      if_pos h2', h2, false_and, and_false]
    simp

/-! ### CLEAR (rule R114) -/

/-- Every framebuffer word holds the value after a CLEAR. -/
theorem readWord_clearMem {v : Word} {cv : Canvas} {m : Memory} {px py : Nat} (hm : Memory.wf m = true)
    (hx : px < cv.width) (hy : py < cv.height) :
    readWord (clearMem .replace v cv m) (wordGridAddr cv.fbBase cv.width px py) = v :=
  readWord_foldl_writeWord (fun p : Nat × Nat => wordGridAddr cv.fbBase cv.width p.1 p.2) (fun _ _ => v)
    (fun _ => False) m (grid cv.width cv.height) (fun _ _ _ h => h.elim) (fun _ _ _ _ => rfl)
    (grid_words_disjoint _ _ _) m hm (fun _ h => h.elim) (px, py) (mem_grid.2 ⟨hx, hy⟩)

theorem foldl_writeByte_wf {α : Type} (addr : α → Nat) (v : Byte) (l : List α) :
    ∀ m, Memory.wf m = true → Memory.wf (l.foldl (fun m p => writeByte m (addr p) v) m) = true := by
  induction l with
  | nil => exact fun m hm => hm
  | cons p l ih => exact fun m hm => ih _ (writeByte_wf _ _ hm)

theorem readByte_foldl_writeByte {α : Type} (addr : α → Nat) (v : Byte) (a : Nat) (l : List α)
    (m : Memory) (hm : Memory.wf m = true) :
    ((∃ p ∈ l, addr p = a) → readByte (l.foldl (fun m p => writeByte m (addr p) v) m) a = v) ∧
    ((∀ p ∈ l, addr p ≠ a) → readByte (l.foldl (fun m p => writeByte m (addr p) v) m) a = readByte m a) := by
  induction l generalizing m with
  | nil => exact ⟨fun ⟨_, hp, _⟩ => absurd hp List.not_mem_nil, fun _ => rfl⟩
  | cons q l ih =>
      have hm' := writeByte_wf (addr q) v hm
      constructor
      · rintro ⟨p, hp, rfl⟩
        rw [List.foldl_cons]
        by_cases hin : ∃ r ∈ l, addr r = addr p
        · exact (ih _ hm').1 hin
        · have hin' : ∀ r ∈ l, addr r ≠ addr p := fun r hr e => hin ⟨r, hr, e⟩
          rw [(ih _ hm').2 hin']
          rcases List.mem_cons.1 hp with rfl | hp
          · exact readByte_writeByte_self _ _ hm
          · exact absurd rfl (hin' p hp)
      · intro h
        rw [List.foldl_cons, (ih _ hm').2 fun r hr => h r (List.mem_cons_of_mem _ hr),
          readByte_writeByte_ne _ (h q List.mem_cons_self).symm]

/-- Every index byte holds the index after a CLEAR.I. -/
theorem readByte_clearMem {v : Word} {cv : Canvas} {m : Memory} {px py : Nat} (hm : Memory.wf m = true)
    (hx : px < cv.width) (hy : py < cv.height) :
    readByte (clearMem .index v cv m) (byteGridAddr cv.idxBase cv.width px py) = indexOf v :=
  (readByte_foldl_writeByte (fun p : Nat × Nat => byteGridAddr cv.idxBase cv.width p.1 p.2) (indexOf v) _
    (grid cv.width cv.height) m hm).1 ⟨(px, py), mem_grid.2 ⟨hx, hy⟩, rfl⟩

theorem clearMem_wf {mode : DrawMode} {v : Word} {cv : Canvas} {m : Memory} (hm : Memory.wf m = true) :
    Memory.wf (clearMem mode v cv m) = true := by
  cases mode
  · exact foldl_writeWord_wf (fun p : Nat × Nat => wordGridAddr cv.fbBase cv.width p.1 p.2) (fun _ _ => v) _ m hm
  · exact foldl_writeWord_wf (fun p : Nat × Nat => wordGridAddr cv.fbBase cv.width p.1 p.2) (fun _ _ => v) _ m hm
  · exact foldl_writeByte_wf (fun p : Nat × Nat => byteGridAddr cv.idxBase cv.width p.1 p.2) (indexOf v) _ m hm

/-- CLEAR and CLEAR.I write no byte outside the mode's target buffer. -/
theorem readByte_clearMem_outside {mode : DrawMode} {v : Word} {cv : Canvas} {m : Memory} {a : Nat}
    (hm : Memory.wf m = true)
    (ha : a < (targetRegion mode cv).1 ∨ (targetRegion mode cv).1 + (targetRegion mode cv).2 ≤ a) :
    readByte (clearMem mode v cv m) a = readByte m a := by
  have hw : ∀ p ∈ grid cv.width cv.height, (a < cv.fbBase ∨ cv.fbBase + 4 * (cv.width * cv.height) ≤ a) →
      a < wordGridAddr cv.fbBase cv.width p.1 p.2 ∨ wordGridAddr cv.fbBase cv.width p.1 p.2 + 4 ≤ a := by
    rintro ⟨c, r⟩ hp ha
    have := wordGridAddr_inside (b := cv.fbBase) (mem_grid.1 hp).1 (mem_grid.1 hp).2
    dsimp only at this ⊢
    omega
  cases mode
  · exact readByte_foldl_writeWord (fun p : Nat × Nat => wordGridAddr cv.fbBase cv.width p.1 p.2) (fun _ _ => v)
      _ (fun p hp => hw p hp ha) m
  · exact readByte_foldl_writeWord (fun p : Nat × Nat => wordGridAddr cv.fbBase cv.width p.1 p.2) (fun _ _ => v)
      _ (fun p hp => hw p hp ha) m
  · refine (readByte_foldl_writeByte (fun p : Nat × Nat => byteGridAddr cv.idxBase cv.width p.1 p.2) (indexOf v)
      a _ m hm).2 ?_
    rintro ⟨c, r⟩ hp e
    have := byteGridAddr_inside (b := cv.idxBase) (mem_grid.1 hp).1 (mem_grid.1 hp).2
    simp only [targetRegion] at ha
    dsimp only at this e
    omega

/-! ### CONVERT (rule R140) -/

/-- The word gathered at each position, when source and destination share no byte. -/
theorem readWord_convertMem {pal : List Word} {dst src n : Nat} {m : Memory} (hm : Memory.wf m = true)
    (hsep : n = 0 ∨ dst + 4 * n ≤ src ∨ src + n ≤ dst) {i : Nat} (hi : i < n) :
    readWord (convertMem pal dst src n m) (dst + 4 * i) = palEntry pal (readByte m (src + i)).toNat := by
  refine readWord_foldl_writeWord (fun i => dst + 4 * i)
    (fun m i => palEntry pal (readByte m (src + i)).toNat) (fun a => src ≤ a ∧ a < src + n) m (List.range n)
    ?_ ?_ ?_ m hm (fun _ _ => rfl) i (List.mem_range.2 hi)
  · intro j hj a ha
    have := List.mem_range.1 hj
    omega
  · intro m' h' j hj
    have := List.mem_range.1 hj
    rw [h' (src + j) ⟨by omega, by omega⟩]
  · exact List.nodup_range.imp fun {a b} h => by omega

theorem convertMem_wf {pal : List Word} {dst src n : Nat} {m : Memory} (hm : Memory.wf m = true) :
    Memory.wf (convertMem pal dst src n m) = true :=
  foldl_writeWord_wf (fun i => dst + 4 * i) (fun m i => palEntry pal (readByte m (src + i)).toNat) _ m hm

/-- CONVERT writes no byte outside its destination. -/
theorem readByte_convertMem_outside {pal : List Word} {dst src n : Nat} {m : Memory} {a : Nat}
    (ha : a < dst ∨ dst + 4 * n ≤ a) : readByte (convertMem pal dst src n m) a = readByte m a :=
  readByte_foldl_writeWord (fun i => dst + 4 * i) (fun m i => palEntry pal (readByte m (src + i)).toNat) _
    (fun j hj => by have := List.mem_range.1 hj; omega) m

/-! ### UPSCALE (rule R150) -/

/-- Bytes of an upscaled image, as the destination grid counts them. -/
theorem upscaled_bytes (w h f : Nat) : 4 * w * h * f * f = 4 * ((w * f) * (h * f)) := by ring

/-- Each destination word is its source word, when source and destination share no byte. -/
theorem readWord_upscaleMem {dst src w h f : Nat} {m : Memory} (hm : Memory.wf m = true)
    (hsep : regionsOverlap src (4 * w * h) dst (4 * w * h * f * f) = false) {px py : Nat}
    (hx : px < w * f) (hy : py < h * f) :
    readWord (upscaleMem dst src w h f m) (wordGridAddr dst (w * f) px py) =
      readWord m (wordGridAddr src w (px / f) (py / f)) := by
  rw [regionsOverlap_false, upscaled_bytes, show 4 * w * h = 4 * (w * h) from Nat.mul_assoc 4 w h] at hsep
  have hcell : ∀ p ∈ grid (w * f) (h * f), p.1 / f < w ∧ p.2 / f < h := by
    rintro ⟨c, r⟩ hp
    obtain ⟨hc, hr⟩ := mem_grid.1 hp
    exact ⟨Nat.div_lt_of_lt_mul (Nat.mul_comm w f ▸ hc), Nat.div_lt_of_lt_mul (Nat.mul_comm h f ▸ hr)⟩
  refine readWord_foldl_writeWord (fun p : Nat × Nat => wordGridAddr dst (w * f) p.1 p.2)
    (fun m p => readWord m (wordGridAddr src w (p.1 / f) (p.2 / f)))
    (fun a => src ≤ a ∧ a < src + 4 * (w * h)) m (grid (w * f) (h * f)) ?_ ?_ (grid_words_disjoint _ _ _) m hm
    (fun _ _ => rfl) (px, py) (mem_grid.2 ⟨hx, hy⟩)
  · rintro ⟨c, r⟩ hp a ha
    obtain ⟨hc, hr⟩ := mem_grid.1 hp
    have := wordGridAddr_inside (b := dst) hc hr
    have hpos := gridIndex_lt hc hr
    dsimp only
    omega
  · rintro m' h' ⟨c, r⟩ hp
    obtain ⟨h1, h2⟩ := hcell _ hp
    have := wordGridAddr_inside (b := src) h1 h2
    dsimp only at this ⊢
    exact readWord_congr fun k hk hk' => h' k ⟨by omega, by omega⟩

theorem upscaleMem_wf {dst src w h f : Nat} {m : Memory} (hm : Memory.wf m = true) :
    Memory.wf (upscaleMem dst src w h f m) = true :=
  foldl_writeWord_wf (fun p : Nat × Nat => wordGridAddr dst (w * f) p.1 p.2)
    (fun m p => readWord m (wordGridAddr src w (p.1 / f) (p.2 / f))) _ m hm

/-- UPSCALE writes no byte outside its destination. -/
theorem readByte_upscaleMem_outside {dst src w h f : Nat} {m : Memory} {a : Nat}
    (ha : a < dst ∨ dst + 4 * w * h * f * f ≤ a) : readByte (upscaleMem dst src w h f m) a = readByte m a := by
  refine readByte_foldl_writeWord (fun p : Nat × Nat => wordGridAddr dst (w * f) p.1 p.2)
    (fun m p => readWord m (wordGridAddr src w (p.1 / f) (p.2 / f))) _ ?_ m
  rintro ⟨c, r⟩ hp
  rw [upscaled_bytes] at ha
  have := wordGridAddr_inside (b := dst) (mem_grid.1 hp).1 (mem_grid.1 hp).2
  dsimp only at this ⊢
  omega

/-! ### Memory lists of the loops -/

theorem mem_foldl_writeWord {α : Type} (addr : α → Nat) (val : Memory → α → Word) {c : Host.Cell} (l : List α) :
    ∀ {m : Memory}, c ∈ l.foldl (fun m p => writeWord m (addr p) (val m p)) m →
      (∃ p ∈ l, addr p ≤ c.1 ∧ c.1 < addr p + 4) ∨ c ∈ m := by
  induction l with
  | nil => exact fun h => .inr h
  | cons p l ih =>
      intro m h
      rcases ih h with ⟨q, hq, h⟩ | h
      · exact .inl ⟨q, List.mem_cons_of_mem _ hq, h⟩
      · rcases mem_writeWord h with h | h
        · exact .inl ⟨p, List.mem_cons_self, h⟩
        · exact .inr h

theorem mem_foldl_writeByte {α : Type} (addr : α → Nat) (v : Byte) {c : Host.Cell} (l : List α) :
    ∀ {m : Memory}, c ∈ l.foldl (fun m p => writeByte m (addr p) v) m → (∃ p ∈ l, c.1 = addr p) ∨ c ∈ m := by
  induction l with
  | nil => exact fun h => .inr h
  | cons p l ih =>
      intro m h
      rcases ih h with ⟨q, hq, h⟩ | h
      · exact .inl ⟨q, List.mem_cons_of_mem _ hq, h⟩
      · rcases mem_writeByte h with h | h
        · exact .inl ⟨p, List.mem_cons_self, h⟩
        · exact .inr h

/-- Every byte CLEAR and CLEAR.I list is in the mode's target buffer, or was listed before. -/
theorem mem_clearMem {mode : DrawMode} {v : Word} {cv : Canvas} {m : Memory} {c : Host.Cell}
    (h : c ∈ clearMem mode v cv m) :
    ((targetRegion mode cv).1 ≤ c.1 ∧ c.1 < (targetRegion mode cv).1 + (targetRegion mode cv).2) ∨ c ∈ m := by
  have key := fun p (hp : p ∈ grid cv.width cv.height) => mem_grid.1 (show (p.1, p.2) ∈ _ from hp)
  have word : ((∃ p ∈ grid cv.width cv.height, wordGridAddr cv.fbBase cv.width p.1 p.2 ≤ c.1 ∧
      c.1 < wordGridAddr cv.fbBase cv.width p.1 p.2 + 4) ∨ c ∈ m) →
      (cv.fbBase ≤ c.1 ∧ c.1 < cv.fbBase + 4 * (cv.width * cv.height)) ∨ c ∈ m := by
    rintro (⟨p, hp, h1, h2⟩ | h)
    · have := wordGridAddr_inside (b := cv.fbBase) (key p hp).1 (key p hp).2
      exact .inl (by omega)
    · exact .inr h
  cases mode
  · exact word (mem_foldl_writeWord (fun p : Nat × Nat => wordGridAddr cv.fbBase cv.width p.1 p.2)
      (fun _ _ => v) _ h)
  · exact word (mem_foldl_writeWord (fun p : Nat × Nat => wordGridAddr cv.fbBase cv.width p.1 p.2)
      (fun _ _ => v) _ h)
  · rcases mem_foldl_writeByte (fun p : Nat × Nat => byteGridAddr cv.idxBase cv.width p.1 p.2) (indexOf v) _ h
      with ⟨p, hp, h1⟩ | h
    · have := byteGridAddr_inside (b := cv.idxBase) (key p hp).1 (key p hp).2
      exact .inl (by simp only [targetRegion]; omega)
    · exact .inr h

/-! ### Sprites (rules R160, R166) -/

/-- The sprite loop over any list of positions, from the memory `m`. -/
theorem drawSprite_eq (mode : DrawMode) (x y : Int) (sb sw sh : Nat) (shade : Int → Int → Word → Option Word)
    (cv : Canvas) (m : Memory) :
    drawSprite mode x y sb sw sh shade cv m = (grid sw sh).foldl (fun m p =>
      match shade (x + p.1) (y + p.2) (readWord m (wordGridAddr sb sw p.1 p.2)) with
      | some c => plot mode cv (x + p.1) (y + p.2) c m
      | none => m) m := rfl

theorem drawSprite_wf {mode : DrawMode} {x y : Int} {sb sw sh : Nat} {shade : Int → Int → Word → Option Word}
    {cv : Canvas} {m : Memory} (hm : Memory.wf m = true) :
    Memory.wf (drawSprite mode x y sb sw sh shade cv m) = true := by
  rw [drawSprite_eq]
  induction grid sw sh generalizing m with
  | nil => exact hm
  | cons p l ih =>
      rw [List.foldl_cons]
      split
      · exact ih (plot_wf hm)
      · exact ih hm

theorem mem_drawSprite {mode : DrawMode} {x y : Int} {sb sw sh : Nat} {shade : Int → Int → Word → Option Word}
    {cv : Canvas} {m : Memory} {c : Host.Cell} (h : c ∈ drawSprite mode x y sb sw sh shade cv m) :
    ((targetRegion mode cv).1 ≤ c.1 ∧ c.1 < (targetRegion mode cv).1 + (targetRegion mode cv).2) ∨ c ∈ m := by
  rw [drawSprite_eq] at h
  generalize grid sw sh = l at h
  induction l generalizing m with
  | nil => exact .inr h
  | cons p l ih =>
      rw [List.foldl_cons] at h
      rcases ih h with h | h
      · exact .inl h
      · split at h
        · exact mem_plot h
        · exact .inr h

/-- A sprite writes no byte outside the mode's target buffer. -/
theorem readByte_drawSprite_outside {mode : DrawMode} {x y : Int} {sb sw sh : Nat}
    {shade : Int → Int → Word → Option Word} {cv : Canvas} {a : Nat} (m : Memory)
    (ha : a < (targetRegion mode cv).1 ∨ (targetRegion mode cv).1 + (targetRegion mode cv).2 ≤ a) :
    readByte (drawSprite mode x y sb sw sh shade cv m) a = readByte m a := by
  rw [drawSprite_eq]
  induction grid sw sh generalizing m with
  | nil => rfl
  | cons p l ih =>
      rw [List.foldl_cons, ih]
      split
      · exact readByte_plot_outside ha
      · rfl

/-- What a sprite leaves in a framebuffer pixel, when its array and the framebuffer share no byte: the shade of the sprite
pixel that falls there, replaced or blended, or the old pixel where none falls or the shade is none. -/
theorem readWord_drawSprite {mode : DrawMode} {x y : Int} {sb sw sh : Nat}
    {shade : Int → Int → Word → Option Word} {cv : Canvas} {m : Memory} (hmode : mode ≠ .index)
    (hm : Memory.wf m = true)
    (hsep : regionsOverlap sb (4 * sw * sh) cv.fbBase (4 * cv.width * cv.height) = false)
    {px py : Nat} (hx : px < cv.width) (hy : py < cv.height) :
    readWord (drawSprite mode x y sb sw sh shade cv m) (wordGridAddr cv.fbBase cv.width px py) =
      if x ≤ px ∧ px < x + sw ∧ y ≤ py ∧ py < y + sh then
        match shade px py (readWord m (wordGridAddr sb sw (px - x).toNat (py - y).toNat)) with
        | some c =>
            if mode = .blend then blend c (readWord m (wordGridAddr cv.fbBase cv.width px py)) else c
        | none => readWord m (wordGridAddr cv.fbBase cv.width px py)
      else readWord m (wordGridAddr cv.fbBase cv.width px py) := by
  rw [regionsOverlap_false, show 4 * sw * sh = 4 * (sw * sh) from Nat.mul_assoc 4 sw sh,
    show 4 * cv.width * cv.height = 4 * (cv.width * cv.height) from Nat.mul_assoc _ _ _] at hsep
  -- the loop over any part of the grid without repetitions, from a memory that agrees with `m` on the sprite
  have main : ∀ l : List (Nat × Nat), l.Nodup → (∀ p ∈ l, p.1 < sw ∧ p.2 < sh) → ∀ m' : Memory,
      Memory.wf m' = true → (∀ a, sb ≤ a → a < sb + 4 * (sw * sh) → readByte m' a = readByte m a) →
      readWord (l.foldl (fun m p =>
        match shade (x + p.1) (y + p.2) (readWord m (wordGridAddr sb sw p.1 p.2)) with
        | some c => plot mode cv (x + p.1) (y + p.2) c m
        | none => m) m') (wordGridAddr cv.fbBase cv.width px py) =
        if ∃ p ∈ l, x + p.1 = px ∧ y + p.2 = py then
          match shade px py (readWord m (wordGridAddr sb sw (px - x).toNat (py - y).toNat)) with
          | some c =>
              if mode = .blend then blend c (readWord m' (wordGridAddr cv.fbBase cv.width px py)) else c
          | none => readWord m' (wordGridAddr cv.fbBase cv.width px py)
        else readWord m' (wordGridAddr cv.fbBase cv.width px py) := by
    intro l
    induction l with
    | nil => intro _ _ m' _ _; simp
    | cons p l ih =>
        obtain ⟨c, r⟩ := p
        intro hnd hin m' hm' hsame
        obtain ⟨hnot, hnd'⟩ := List.nodup_cons.1 hnd
        obtain ⟨hc, hr⟩ := hin _ List.mem_cons_self
        dsimp only at hc hr
        have hsrc : readWord m' (wordGridAddr sb sw c r) = readWord m (wordGridAddr sb sw c r) := by
          have := wordGridAddr_inside (b := sb) hc hr
          exact readWord_congr fun k hk hk' => hsame k (by omega) (by omega)
        have hpos := gridIndex_lt hc hr
        rw [List.foldl_cons]
        dsimp only
        rw [hsrc]
        have hin' : ∀ q ∈ l, q.1 < sw ∧ q.2 < sh := fun q hq => hin q (List.mem_cons_of_mem _ hq)
        -- the rest of the loop runs from a memory that still agrees on the sprite
        have hplot : ∀ v, ∀ a, sb ≤ a → a < sb + 4 * (sw * sh) →
            readByte (plot mode cv (x + c) (y + r) v m') a = readByte m a := by
          intro v a h1 h2
          rw [← hsame a h1 h2]
          refine readByte_plot_outside ?_
          have h4 := gridIndex_lt hx hy
          cases mode
          · simp only [targetRegion]; omega
          · simp only [targetRegion]; omega
          · exact absurd rfl hmode
        by_cases hit : x + (c : Int) = px ∧ y + (r : Int) = py
        · -- this position falls on the pixel; no later one does
          have hlater : ¬∃ q ∈ l, x + (q.1 : Int) = px ∧ y + (q.2 : Int) = py := by
            rintro ⟨⟨c', r'⟩, hq, h1, h2⟩
            dsimp only at h1 h2
            have e1 : c' = c := by omega
            have e2 : r' = r := by omega
            subst e1; subst e2
            exact hnot hq
          have hnow : ∃ q ∈ (c, r) :: l, x + (q.1 : Int) = px ∧ y + (q.2 : Int) = py :=
            ⟨(c, r), List.mem_cons_self, hit⟩
          rw [if_pos hnow, hit.1, hit.2]
          have ec : ((px : Int) - x).toNat = c := by omega
          have er : ((py : Int) - y).toNat = r := by omega
          rw [ec, er]
          cases hs : shade px py (readWord m (wordGridAddr sb sw c r)) with
          | none => dsimp only; rw [ih hnd' hin' m' hm' hsame, if_neg hlater]
          | some v =>
              dsimp only
              rw [ih hnd' hin' _ (plot_wf hm') (by have := hplot v; rwa [hit.1, hit.2] at this),
                if_neg hlater, readWord_plot hmode hm' hx hy, if_pos ⟨rfl, rfl⟩]
        · have hiff : (∃ q ∈ (c, r) :: l, x + (q.1 : Int) = px ∧ y + (q.2 : Int) = py) ↔
              ∃ q ∈ l, x + (q.1 : Int) = px ∧ y + (q.2 : Int) = py := by
            constructor
            · rintro ⟨q, hq, h⟩
              rcases List.mem_cons.1 hq with rfl | hq
              · exact absurd h hit
              · exact ⟨q, hq, h⟩
            · rintro ⟨q, hq, h⟩
              exact ⟨q, List.mem_cons_of_mem _ hq, h⟩
          simp only [hiff]
          cases hs : shade (x + c) (y + r) (readWord m (wordGridAddr sb sw c r)) with
          | none => dsimp only; rw [ih hnd' hin' m' hm' hsame]
          | some v =>
              dsimp only
              rw [ih hnd' hin' _ (plot_wf hm') (hplot v), readWord_plot hmode hm' hx hy, if_neg hit]
  rw [drawSprite_eq, main (grid sw sh) (grid_nodup _ _) (fun p hp => mem_grid.1 hp) m hm (fun _ _ _ => rfl)]
  have hiff : (∃ p ∈ grid sw sh, x + (p.1 : Int) = px ∧ y + (p.2 : Int) = py) ↔
      (x ≤ px ∧ (px : Int) < x + sw ∧ y ≤ py ∧ (py : Int) < y + sh) := by
    constructor
    · rintro ⟨⟨c, r⟩, hp, h1, h2⟩
      obtain ⟨hc, hr⟩ := mem_grid.1 hp
      dsimp only at h1 h2
      omega
    · intro h
      refine ⟨((px - x).toNat, (py - y).toNat), mem_grid.2 ⟨by omega, by omega⟩, ?_, ?_⟩ <;> dsimp only <;> omega
  simp only [hiff]

end Sys2Proof.Machine
end

