-- ==== Sys2Proof/Laws/Encoding.lean ====
section
/-! SUPPORT. Operand words and header fields, each read back from its encoding. -/

namespace Sys2Proof

theorem signedOperand_signedWord {v : Int} (h : signedOk v = true) : signedOperand (signedWord v) = v := by
  simp only [signedOk, Bool.and_eq_true, decide_eq_true_eq] at h
  rw [signedOperand, signedWord, BitVec.toInt_ofInt]
  apply Int.bmod_eq_of_le <;> omega

theorem unsignedOperand_unsignedWord {n : Nat} (h : unsignedOk n = true) :
    unsignedOperand (unsignedWord n) = n := by
  simp only [unsignedOk, decide_eq_true_eq] at h
  rw [unsignedOperand, unsignedWord, BitVec.toNat_ofNat]
  omega

@[simp] theorem signedWord_signedOperand (w : Word) : signedWord (signedOperand w) = w := by
  simp [signedWord, signedOperand]

@[simp] theorem unsignedWord_unsignedOperand (w : Word) : unsignedWord (unsignedOperand w) = w := by
  simp [unsignedWord, unsignedOperand]

@[simp] theorem signedOk_signedOperand (w : Word) : signedOk (signedOperand w) = true := by
  have h1 := BitVec.toInt_lt (x := w)
  have h2 := BitVec.le_toInt (x := w)
  show signedOk w.toInt = true
  simp only [signedOk, Bool.and_eq_true, decide_eq_true_eq]
  omega

@[simp] theorem unsignedOk_unsignedOperand (w : Word) : unsignedOk (unsignedOperand w) = true := by
  have := w.isLt
  show unsignedOk w.toNat = true
  simp only [unsignedOk, decide_eq_true_eq]
  omega

/-- A header with clear reserved bits is its opcode and its mode. -/
theorem header_of_fields {h : Word} (hr : headerReserved h = 0) :
    h = headerValue (headerOpcode h).toNat (headerMode h).toNat := by
  apply BitVec.eq_of_toNat_eq
  have h1 : (headerReserved h).toNat = 0 := by rw [hr]; rfl
  have := h.isLt
  simp only [headerReserved, headerValue, headerOpcode, headerMode, BitVec.extractLsb'_toNat,
    BitVec.toNat_ofNat, Nat.shiftRight_eq_div_pow] at *
  omega

/-- A packet has at least its header. -/
theorem packetLength_pos (h : Word) : 1 ≤ packetLength h := by
  unfold packetLength opcodeLength
  split <;> simp

/-- No packet is longer than a FIFO of the smallest depth. -/
theorem packetLength_le (h : Word) : packetLength h ≤ maxPacketWords := by
  unfold packetLength opcodeLength maxPacketWords
  split <;> simp

end Sys2Proof
end

