-- ==== Sys2Proof/Laws/Invariant.lean ====
section
/-! SUPPORT. Each shared operation keeps the invariant of Safety.lean: the ends of a command, a write of pixel memory inside
PMEM, and what the ports and the host's controls do. -/

namespace Sys2Proof.Machine

theorem reset_mem_wf : Memory.wf State.reset.mem = true := rfl

/-- A configuration depends on the parameters and the configuration registers alone. -/
theorem ConfigOk.congr {s t : State} (h : ConfigOk s) (hp : t.params = s.params)
    (hf : t.cfgFactor = s.cfgFactor) (hw : t.cfgWidth = s.cfgWidth) (hh : t.cfgHeight = s.cfgHeight)
    (hi : t.cfgIdxBase = s.cfgIdxBase) (hb : t.cfgFbBase = s.cfgFbBase) (ho : t.cfgOutBase = s.cfgOutBase) :
    ConfigOk t := by
  obtain ⟨h1, h2, h3, h4, h5, h6, h7, h8, h9, h10, h11, h12, h13, h14⟩ := h
  constructor <;> simp only [idxBytes, fbBytes, outBytes, hp, hf, hw, hh, hi, hb, ho] at * <;> assumption

/-- The invariant does not depend on the error header, the interrupt registers, RESULT, SIGNAL, CMD_COUNT or the ports. -/
theorem Inv.congr {s t : State} (h : Inv s) (hp : t.params = s.params) (hm : t.mem = s.mem)
    (hq : t.fifo = s.fifo) (hh : t.halted = s.halted) (he : t.errCode = s.errCode) (hpal : t.pal = s.pal)
    (hv : t.cfgValid = s.cfgValid) (h1 : t.cfgFactor = s.cfgFactor) (h2 : t.cfgWidth = s.cfgWidth)
    (h3 : t.cfgHeight = s.cfgHeight) (h4 : t.cfgIdxBase = s.cfgIdxBase) (h5 : t.cfgFbBase = s.cfgFbBase)
    (h6 : t.cfgOutBase = s.cfgOutBase) : Inv t where
  params := hp ▸ h.params
  mem := ⟨hm ▸ h.mem.canonical, fun c hc => hp ▸ h.mem.inside c (hm ▸ hc)⟩
  fifo := by rw [hq, hp]; exact h.fifo
  halted_iff := by rw [hh, he]; exact h.halted_iff
  code := by rw [he]; exact h.code
  pal_size := by rw [hpal]; exact h.pal_size
  pal_nodup := by rw [hpal]; exact h.pal_nodup
  config := fun hc => (h.config (hv ▸ hc)).congr hp h1 h2 h3 h4 h5 h6

theorem Inv.countCommand {s : State} (h : Inv s) : Inv (countCommand s) :=
  h.congr rfl rfl rfl rfl rfl rfl rfl rfl rfl rfl rfl rfl rfl

theorem Inv.respond {s : State} (h : Inv s) (d : Word) (b : Bool) : Inv (respond d b s) :=
  h.congr rfl rfl rfl rfl rfl rfl rfl rfl rfl rfl rfl rfl rfl

theorem Inv.setPort {s : State} (h : Inv s) (ev : List PortEvent) : Inv (setPort s ev) :=
  h.congr rfl rfl rfl rfl rfl rfl rfl rfl rfl rfl rfl rfl rfl

theorem Inv.setIrq {s : State} (h : Inv s) (bits : BitVec 3) : Inv (setIrq bits s) :=
  h.congr rfl rfl rfl rfl rfl rfl rfl rfl rfl rfl rfl rfl rfl

theorem Inv.raiseError {s : State} (h : Inv s) (e : CommandError) (hd : Word) : Inv (raiseError e hd s) where
  params := h.params
  mem := ⟨h.mem.canonical, h.mem.inside⟩
  fifo := h.fifo
  halted_iff := by cases e <;> simp [Machine.raiseError, errorCode]
  code := by cases e <;> simp [Machine.raiseError, errorCode]
  pal_size := h.pal_size
  pal_nodup := h.pal_nodup
  config := fun hv => (h.config hv).congr rfl rfl rfl rfl rfl rfl rfl

/-- A memory in canonical form that lists only bytes of PMEM can take pixel memory's place. -/
theorem Inv.setMem {s : State} (h : Inv s) {m : Memory} (hw : Memory.wf m = true)
    (hi : ∀ c ∈ m, c.1 < s.params.pmemSize) : Inv (setMem s m) where
  params := h.params
  mem := ⟨hw, hi⟩
  fifo := h.fifo
  halted_iff := h.halted_iff
  code := h.code
  pal_size := h.pal_size
  pal_nodup := h.pal_nodup
  config := fun hv => (h.config hv).congr rfl rfl rfl rfl rfl rfl rfl

/-- A FIFO within its capacity can take the FIFO's place. -/
theorem Inv.setFifo {s : State} (h : Inv s) {words : List Word} (hl : words.length ≤ s.params.fifoDepth) :
    Inv (setFifo s words) where
  params := h.params
  mem := ⟨h.mem.canonical, h.mem.inside⟩
  fifo := hl
  halted_iff := h.halted_iff
  code := h.code
  pal_size := h.pal_size
  pal_nodup := h.pal_nodup
  config := fun hv => (h.config hv).congr rfl rfl rfl rfl rfl rfl rfl

theorem Inv.resetBlock {s : State} (h : Inv s) : Inv (resetBlock s) where
  params := h.params
  mem := ⟨h.mem.canonical, h.mem.inside⟩
  fifo := Nat.zero_le _
  halted_iff := by simp [Machine.resetBlock, State.powerOn]
  code := by simp [Machine.resetBlock, State.powerOn]
  pal_size := Nat.zero_le _
  pal_nodup := List.nodup_nil
  config := fun hv => nomatch hv

theorem Inv.resumeEngine {s : State} (h : Inv s) : Inv (resumeEngine s) := by
  unfold Machine.resumeEngine
  split
  · exact
      { params := h.params
        mem := ⟨h.mem.canonical, h.mem.inside⟩
        fifo := h.fifo
        halted_iff := by simp
        code := by simp
        pal_size := h.pal_size
        pal_nodup := h.pal_nodup
        config := fun hv => (h.config hv).congr rfl rfl rfl rfl rfl rfl rfl }
  · exact h

end Sys2Proof.Machine
end

