-- ==== Sys2Proof/Laws/Palette.lean ====
section
/-! SUPPORT. What the palette lookup of rule R100 finds, and everything PAL_ADD and PAL_FIND can do. -/

namespace Sys2Proof.Machine

/-- Lookup finds nothing exactly when the colour is no entry. -/
theorem palLookup_none {pal : List Word} {c : Word} : palLookup pal c = none ↔ c ∉ pal := by
  simp only [palLookup, List.find?_eq_none, List.mem_range]
  constructor
  · intro h hc
    obtain ⟨k, hk, rfl⟩ := List.mem_iff_getElem.1 hc
    exact h k hk (by simp [palEntry, hk])
  · intro h k hk he
    refine h (List.mem_iff_getElem.2 ⟨k, hk, ?_⟩)
    simpa [palEntry, hk] using he

/-- What lookup finds is an index of the colour. -/
theorem palLookup_some {pal : List Word} {c : Word} {j : Nat} (h : palLookup pal c = some j) :
    ∃ hj : j < pal.length, pal[j] = c := by
  have hj : j < pal.length := List.mem_range.1 (List.mem_of_find?_eq_some h)
  exact ⟨hj, by simpa [palEntry, hj] using List.find?_some h⟩

/-- Everything PAL_ADD can write (rule R101). -/
theorem palAddEffect_cases (c : Word) (s : State) :
    (∃ (j : Nat) (hj : j < s.pal.length), s.pal[j] = c ∧ palLookup s.pal c = some j ∧
      palAddEffect c s = { s with result := BitVec.ofNat 32 j }) ∨
    (c ∉ s.pal ∧ s.pal.length < 256 ∧
      palAddEffect c s = { s with pal := s.pal ++ [c], result := BitVec.ofNat 32 s.pal.length }) ∨
    (c ∉ s.pal ∧ 256 ≤ s.pal.length ∧ palAddEffect c s = { s with result := noIndex }) := by
  unfold palAddEffect
  cases h : palLookup s.pal c with
  | some j =>
      obtain ⟨hj, he⟩ := palLookup_some h
      exact .inl ⟨j, hj, he, rfl, rfl⟩
  | none =>
      have hn := palLookup_none.1 h
      by_cases hl : s.pal.length < 256
      · exact .inr (.inl ⟨hn, hl, by simp [palSize, Config.paletteEntries, hl]⟩)
      · exact .inr (.inr ⟨hn, by omega, by simp [palSize, Config.paletteEntries, hl]⟩)

/-- Everything PAL_FIND can write (rule R102). -/
theorem palFindEffect_cases (c : Word) (s : State) :
    (∃ (j : Nat) (hj : j < s.pal.length), s.pal[j] = c ∧ palLookup s.pal c = some j ∧
      palFindEffect c s = { s with result := BitVec.ofNat 32 j }) ∨
    (c ∉ s.pal ∧ palFindEffect c s = { s with result := noIndex }) := by
  unfold palFindEffect
  cases h : palLookup s.pal c with
  | some j =>
      obtain ⟨hj, he⟩ := palLookup_some h
      exact .inl ⟨j, hj, he, rfl, rfl⟩
  | none => exact .inr ⟨palLookup_none.1 h, rfl⟩

end Sys2Proof.Machine
end

