-- ==== Sys2Proof/Laws/PerInstr.lean ====
section
/-! SUPPORT. Per command: its header is legal (rules R80, R82, R86), with clear reserved bits, and its packet has one
operand word per operand of rule R80. -/

namespace Sys2Proof.Laws.LegalHeader

/-- The header `opcode + 256·mode` has clear reserved bits and the length that so many operands make. -/
abbrev HeaderOf (opcode mode operands : Nat) : Prop :=
  headerReserved (headerValue opcode mode) = 0 ∧
    opcodeLength (headerOpcode (headerValue opcode mode)) = some (operands + 1)

/-- The header of the command has clear reserved bits and a legal opcode, of the length its operands make. -/
def Statement (i : Instr) : Prop :=
  headerReserved (headerWord i) = 0 ∧
    opcodeLength (headerOpcode (headerWord i)) = some ((operandWords i).length + 1)

theorem nop :
    Statement .nop := (by decide : HeaderOf 0x00 0 0)

theorem init (f w h bi bf bo : Nat) :
    Statement (.init f w h bi bf bo) := (by decide : HeaderOf 0x01 0 6)

theorem signal (v : Word) :
    Statement (.signal v) := (by decide : HeaderOf 0x02 0 1)

theorem signalIrq (v : Word) :
    Statement (.signalIrq v) := (by decide : HeaderOf 0x02 1 1)

theorem palAdd (v : Word) :
    Statement (.palAdd v) := (by decide : HeaderOf 0x03 0 1)

theorem palFind (v : Word) :
    Statement (.palFind v) := (by decide : HeaderOf 0x04 0 1)

theorem clear (v : Word) :
    Statement (.clear v) := (by decide : HeaderOf 0x10 0 1)

theorem clearI (v : Word) :
    Statement (.clearI v) := (by decide : HeaderOf 0x10 2 1)

theorem pixel (x y : Int) (v : Word) :
    Statement (.pixel x y v) := (by decide : HeaderOf 0x11 0 3)

theorem pixelB (x y : Int) (v : Word) :
    Statement (.pixelB x y v) := (by decide : HeaderOf 0x11 1 3)

theorem pixelI (x y : Int) (v : Word) :
    Statement (.pixelI x y v) := (by decide : HeaderOf 0x11 2 3)

theorem line (p q r s : Int) (v : Word) :
    Statement (.line p q r s v) := (by decide : HeaderOf 0x12 0 5)

theorem lineB (p q r s : Int) (v : Word) :
    Statement (.lineB p q r s v) := (by decide : HeaderOf 0x12 1 5)

theorem lineI (p q r s : Int) (v : Word) :
    Statement (.lineI p q r s v) := (by decide : HeaderOf 0x12 2 5)

theorem linep (p q r s : Int) (v : Word) :
    Statement (.linep p q r s v) := (by decide : HeaderOf 0x13 0 5)

theorem linepB (p q r s : Int) (v : Word) :
    Statement (.linepB p q r s v) := (by decide : HeaderOf 0x13 1 5)

theorem linepI (p q r s : Int) (v : Word) :
    Statement (.linepI p q r s v) := (by decide : HeaderOf 0x13 2 5)

theorem rect (p q r s : Int) (v : Word) :
    Statement (.rect p q r s v) := (by decide : HeaderOf 0x14 0 5)

theorem rectB (p q r s : Int) (v : Word) :
    Statement (.rectB p q r s v) := (by decide : HeaderOf 0x14 1 5)

theorem rectI (p q r s : Int) (v : Word) :
    Statement (.rectI p q r s v) := (by decide : HeaderOf 0x14 2 5)

theorem fill (p q r s : Int) (v : Word) :
    Statement (.fill p q r s v) := (by decide : HeaderOf 0x15 0 5)

theorem fillB (p q r s : Int) (v : Word) :
    Statement (.fillB p q r s v) := (by decide : HeaderOf 0x15 1 5)

theorem fillI (p q r s : Int) (v : Word) :
    Statement (.fillI p q r s v) := (by decide : HeaderOf 0x15 2 5)

theorem convert (d s n : Nat) :
    Statement (.convert d s n) := (by decide : HeaderOf 0x20 0 3)

theorem upscale (d s w h f : Nat) :
    Statement (.upscale d s w h f) := (by decide : HeaderOf 0x21 0 5)

theorem blit (x y : Int) (b w h : Nat) :
    Statement (.blit x y b w h) := (by decide : HeaderOf 0x30 0 5)

theorem blitB (x y : Int) (b w h : Nat) :
    Statement (.blitB x y b w h) := (by decide : HeaderOf 0x30 1 5)

theorem light (x y : Int) (b w h : Nat) (lx ly : Int) (k : Word) (r : Nat) (ie am : Word) :
    Statement (.light x y b w h lx ly k r ie am) := (by decide : HeaderOf 0x31 0 11)

theorem lightB (x y : Int) (b w h : Nat) (lx ly : Int) (k : Word) (r : Nat) (ie am : Word) :
    Statement (.lightB x y b w h lx ly k r ie am) := (by decide : HeaderOf 0x31 1 11)

end Sys2Proof.Laws.LegalHeader
end

