-- ==== Sys2Proof/Laws/Ports.lean ====
section
/-! SUPPORT. The register map by kind of offset, and one lemma per kind of step of the ports. -/

namespace Sys2Proof.Machine

/-! ### The register map (rules R22, R33) -/

/-- An unmapped offset reads 0. -/
theorem registerValue_unmapped {off : Nat} (s : State) (h : (0x054 ≤ off ∧ off < 0x400) ∨ 0x800 ≤ off) :
    registerValue off s = 0#32 := by
  rw [registerValue.eq_22]
  · rw [if_neg (by omega)]
  all_goals omega

/-- The palette window reads the palette. -/
theorem registerValue_palette {i : Nat} (s : State) (h : i < 256) :
    registerValue (0x400 + 4 * i) s = palEntry s.pal i := by
  rw [registerValue.eq_22]
  · rw [if_pos (by omega), show (0x400 + 4 * i - 0x400) / 4 = i by omega]
  all_goals omega

/-- Only CTRL, IRQ_STATUS, IRQ_ENABLE and CMD_FIFO can be written. -/
theorem writeRegister_ignored {off : Nat} (v : Word) (s : State) (h1 : off ≠ 0x004) (h2 : off ≠ 0x014)
    (h3 : off ≠ 0x018) (h4 : off ≠ 0x01C) : writeRegister off v s = s := by
  rw [writeRegister.eq_5]
  all_goals assumption

/-- What a register reads does not depend on the script. -/
@[simp] theorem registerRead_setPort (off : Word) (size : AccessSize) (s : State) (ev : List PortEvent) :
    registerRead off size (setPort s ev) = registerRead off size s := rfl

/-! ### Steps -/

/-- BUSY does not depend on the script. -/
@[simp] theorem busy_setPort (s : State) (ev : List PortEvent) : busy (setPort s ev) = busy s := rfl

theorem agentStep_nil {s : State} (h : s.port = []) : agentStep s = engineStep s := by
  unfold agentStep
  rw [h]

theorem agentStep_engineTurn {s : State} {ev : List PortEvent} (h : s.port = .engineTurn :: ev) :
    agentStep s = engineStep (setPort s ev) := by
  unfold agentStep
  rw [h]

theorem agentStep_resetInput {s : State} {ev : List PortEvent} (h : s.port = .resetInput :: ev) :
    agentStep s = .next (resetBlock (setPort s ev)) := by
  unfold agentStep
  rw [h]

/-- A held memory access: the engine steps. -/
theorem agentStep_held {s : State} {a : HostAccess} {ev : List PortEvent} (h : s.port = .access a :: ev)
    (ha : isMemAccess a = true) (hb : busy s = true) : agentStep s = engineStep s := by
  unfold agentStep
  rw [h]
  simp [ha, hb]

/-- When the engine is next, its step runs over the script that is left. -/
theorem agentStep_engine {s : State} {ev : List PortEvent} (h : EngineIsNext s ev) :
    agentStep s = engineStep (setPort s ev) := by
  rcases h with ⟨h, rfl⟩ | h | ⟨a, rest, h, ha, hb, rfl⟩
  · rw [agentStep_nil h, ← h]
    rfl
  · exact agentStep_engineTurn h
  · exact agentStep_held h ha hb

/-- An accepted access. -/
theorem agentStep_access {s : State} {a : HostAccess} {ev : List PortEvent} (h : s.port = .access a :: ev)
    (hok : isMemAccess a = false ∨ busy s = false) : agentStep s = .next (hostAccess a (setPort s ev)) := by
  unfold agentStep
  rw [h]
  rcases hok with hok | hok <;> simp [hok]

/-- The engine's step on a complete packet that decodes to a command. -/
theorem engineStep_instr {s : State} {h : Word} {rest : List Word} {i : Instr} (hh : s.halted = false)
    (hf : s.fifo = h :: rest) (hl : packetLength h ≤ rest.length + 1)
    (hd : decodePacket h (rest.take (packetLength h - 1)) = .instr i) :
    engineStep s = exec i (setFifo s ((h :: rest).drop (packetLength h))) := by
  have hb : busy s = true := by simp [busy, hh, hf, packetReady, hl]
  simp only [engineStep, executePacket, hb, if_true, hf, hd]

/-- The engine's step on a complete packet with a bad header. -/
theorem engineStep_error {s : State} {h : Word} {rest : List Word} {e : CommandError} (hh : s.halted = false)
    (hf : s.fifo = h :: rest) (hl : packetLength h ≤ rest.length + 1)
    (hd : decodePacket h (rest.take (packetLength h - 1)) = .error e) :
    engineStep s = .next (raiseError e h (setFifo s ((h :: rest).drop (packetLength h)))) := by
  have hb : busy s = true := by simp [busy, hh, hf, packetReady, hl]
  simp only [engineStep, executePacket, hb, if_true, hf, hd]

/-- The engine's step when none is enabled. -/
theorem engineStep_idle {s : State} (hb : busy s = false) : engineStep s = .next s := by
  simp [engineStep, hb]

end Sys2Proof.Machine
end

