-- ==== Sys2Proof/Tests/Slice0.lean ====
section
/-! SUPPORT. Tests: the well-formedness checks, the decoding of every command from words written out from
30_encoding.md, one-step effects against 95_test_vectors.md, and for every obligation with hypotheses a state that meets
them (`witness_…`). Every expected value is the spec's. -/

namespace Sys2Proof.Tests

open Sys2Proof.Machine

-- one theorem after another: each kernel evaluation would otherwise hold a thread while it waits for those before it
set_option Elab.async false

/-! ### Helpers -/

/-- The answer is a next state with the property. -/
def nextIs (r : Result) (p : State → Bool) : Bool :=
  match r with
  | .next t => p t
  | .fault _ => false
  | .refused _ => false

/-- Both answers are the same next state. -/
def sameNext (r r' : Result) : Bool := nextIs r fun t => nextIs r' fun t' => decide (t = t')

/-- S4 of 95_test_vectors.md: `INIT 1, 4, 4, 0x0, 0x40, 0x80` from reset, not counted. -/
def s4 : State :=
  { State.reset with cfgValid := true, cfgFactor := 1, cfgWidth := 4, cfgHeight := 4, cfgFbBase := 0x40, cfgOutBase := 0x80 }

/-- S8 of 95_test_vectors.md: `INIT 1, 8, 8, 0x0, 0x40, 0x200`. -/
def s8 : State :=
  { State.reset with cfgValid := true, cfgFactor := 1, cfgWidth := 8, cfgHeight := 8, cfgFbBase := 0x40, cfgOutBase := 0x200 }

/-- Black, `rgba(0,0,0,255)`. -/
def black : Word := 0xFF000000#32

/-- `rgba(255,0,0,128)`. -/
def halfRed : Word := 0x800000FF#32

/-- The words stored from an address on. -/
def withWords (a : Nat) (ws : List Word) (s : State) : State :=
  setMem s ((ws.zipIdx).foldl (fun m p => writeWord m (a + 4 * p.2) p.1) s.mem)

/-- The framebuffer of S4 cleared to black. -/
def k4 : State := withWords 0x40 (List.replicate 16 black) s4

/-- The rows of the framebuffer. -/
def fbRows (s : State) : List (List Word) :=
  (List.range s.cfgHeight.toNat).map fun y => (List.range s.cfgWidth.toNat).map fun x => fbPixel s x y

/-- The rows of the index buffer. -/
def idxRows (s : State) : List (List Byte) :=
  (List.range s.cfgHeight.toNat).map fun y => (List.range s.cfgWidth.toNat).map fun x => idxPixel s x y

/-- The command answers with the error code and halts. -/
def errorIs (i : Instr) (s : State) (code : BitVec 8) : Bool :=
  nextIs (exec i s) fun t => t.errCode == code && t.halted && t.errHeader == headerWord i && t.cmdCount == s.cmdCount
    && decide (t.mem = s.mem)

/-! ### Well-formedness: an ill-formed term for each check -/

theorem test_wf_init :
    [Instr.init (2 ^ 32) 0 0 0 0 0, .init 0 (2 ^ 32) 0 0 0 0, .init 0 0 (2 ^ 32) 0 0 0, .init 0 0 0 (2 ^ 32) 0 0,
      .init 0 0 0 0 (2 ^ 32) 0, .init 0 0 0 0 0 (2 ^ 32)].all (fun i => !i.wellFormed) = true := by decide

theorem test_wf_pixel :
    [Instr.pixel, .pixelB, .pixelI].all (fun k => !(k (2 ^ 31) 0 0).wellFormed && !(k 0 (-2 ^ 31 - 1) 0).wellFormed
      && (k (-2 ^ 31) (2 ^ 31 - 1) 0).wellFormed) = true := by decide

theorem test_wf_four :
    [Instr.line, .lineB, .lineI, .linep, .linepB, .linepI, .rect, .rectB, .rectI, .fill, .fillB, .fillI].all
      (fun k => !(k (2 ^ 31) 0 0 0 0).wellFormed && !(k 0 (-2 ^ 31 - 1) 0 0 0).wellFormed
        && !(k 0 0 (2 ^ 31) 0 0).wellFormed && !(k 0 0 0 (-2 ^ 31 - 1) 0).wellFormed
        && (k (-2 ^ 31) (2 ^ 31 - 1) (-2 ^ 31) (2 ^ 31 - 1) 0).wellFormed) = true := by decide

theorem test_wf_convert :
    [Instr.convert (2 ^ 32) 0 0, .convert 0 (2 ^ 32) 0, .convert 0 0 (2 ^ 32)].all (fun i => !i.wellFormed) = true := by
  decide

theorem test_wf_upscale :
    [Instr.upscale (2 ^ 32) 0 0 0 0, .upscale 0 (2 ^ 32) 0 0 0, .upscale 0 0 (2 ^ 32) 0 0, .upscale 0 0 0 (2 ^ 32) 0,
      .upscale 0 0 0 0 (2 ^ 32)].all (fun i => !i.wellFormed) = true := by decide

theorem test_wf_blit :
    [Instr.blit, .blitB].all (fun k => !(k (2 ^ 31) 0 0 0 0).wellFormed && !(k 0 (2 ^ 31) 0 0 0).wellFormed
      && !(k 0 0 (2 ^ 32) 0 0).wellFormed && !(k 0 0 0 (2 ^ 32) 0).wellFormed && !(k 0 0 0 0 (2 ^ 32)).wellFormed
      && (k (-1) (-1) (2 ^ 32 - 1) 0 0).wellFormed) = true := by decide

theorem test_wf_light :
    [Instr.light, .lightB].all (fun k => !(k (2 ^ 31) 0 0 0 0 0 0 0 0 0 0).wellFormed
      && !(k 0 (2 ^ 31) 0 0 0 0 0 0 0 0 0).wellFormed && !(k 0 0 (2 ^ 32) 0 0 0 0 0 0 0 0).wellFormed
      && !(k 0 0 0 (2 ^ 32) 0 0 0 0 0 0 0).wellFormed && !(k 0 0 0 0 (2 ^ 32) 0 0 0 0 0 0).wellFormed
      && !(k 0 0 0 0 0 (2 ^ 31) 0 0 0 0 0).wellFormed && !(k 0 0 0 0 0 0 (-2 ^ 31 - 1) 0 0 0 0).wellFormed
      && !(k 0 0 0 0 0 0 0 0 (2 ^ 32) 0 0).wellFormed
      && (k (-1) (-1) 1 1 1 (-1) (-1) 0 (2 ^ 32 - 1) 0 0).wellFormed) = true := by decide

/-! ### Decoding: every command from its words (rules R80, R84, R86)

Headers bit by bit are RSV, MODE, OPCODE (rule R82); the operands are chosen all different. -/

/-- The packet decodes to the command, and the command encodes to the packet. -/
def codes (words : List Word) (i : Instr) : Bool :=
  decide (decodePacket (words.headD 0) words.tail = .instr i) && decide (encode i = words)
    && decide (packetLength (words.headD 0) = words.length)

theorem test_decode_nop : codes [0#22 ++ 0b00#2 ++ 0b00000000#8] .nop = true := by decide
theorem test_decode_init :
    codes [0#22 ++ 0b00#2 ++ 0b00000001#8, 8, 100, 104, 0x0, 0x2710, 0xC350] (.init 8 100 104 0 0x2710 0xC350) = true := by
  decide
theorem test_decode_signal : codes [0#22 ++ 0b00#2 ++ 0b00000010#8, 7] (.signal 7) = true := by decide
theorem test_decode_signalIrq : codes [0#22 ++ 0b01#2 ++ 0b00000010#8, 7] (.signalIrq 7) = true := by decide
theorem test_decode_palAdd : codes [0#22 ++ 0b00#2 ++ 0b00000011#8, 0xFF000000] (.palAdd 0xFF000000) = true := by decide
theorem test_decode_palFind : codes [0#22 ++ 0b00#2 ++ 0b00000100#8, 0x04030201] (.palFind 0x04030201) = true := by decide
theorem test_decode_clear : codes [0#22 ++ 0b00#2 ++ 0b00010000#8, 0xFF000000] (.clear 0xFF000000) = true := by decide
theorem test_decode_clearI : codes [0#22 ++ 0b10#2 ++ 0b00010000#8, 5] (.clearI 5) = true := by decide
theorem test_decode_pixel :
    codes [0#22 ++ 0b00#2 ++ 0b00010001#8, 0xFFFFFFFF, 2, 0x09090909] (.pixel (-1) 2 0x09090909) = true := by decide
theorem test_decode_pixelB :
    codes [0#22 ++ 0b01#2 ++ 0b00010001#8, 1, 0x80000000, 3] (.pixelB 1 (-2 ^ 31) 3) = true := by decide
theorem test_decode_pixelI : codes [0#22 ++ 0b10#2 ++ 0b00010001#8, 1, 2, 3] (.pixelI 1 2 3) = true := by decide
theorem test_decode_line :
    codes [0#22 ++ 0b00#2 ++ 0b00010010#8, 0xFFFFFFFE, 1, 2, 3, 0xFFFF0000] (.line (-2) 1 2 3 0xFFFF0000) = true := by decide
theorem test_decode_lineB : codes [0#22 ++ 0b01#2 ++ 0b00010010#8, 1, 2, 3, 4, 5] (.lineB 1 2 3 4 5) = true := by decide
theorem test_decode_lineI : codes [0#22 ++ 0b10#2 ++ 0b00010010#8, 1, 2, 3, 4, 5] (.lineI 1 2 3 4 5) = true := by decide
theorem test_decode_linep : codes [0#22 ++ 0b00#2 ++ 0b00010011#8, 1, 2, 3, 4, 5] (.linep 1 2 3 4 5) = true := by decide
theorem test_decode_linepB : codes [0#22 ++ 0b01#2 ++ 0b00010011#8, 1, 2, 3, 4, 5] (.linepB 1 2 3 4 5) = true := by decide
theorem test_decode_linepI : codes [0#22 ++ 0b10#2 ++ 0b00010011#8, 1, 2, 3, 4, 5] (.linepI 1 2 3 4 5) = true := by decide
theorem test_decode_rect :
    codes [0#22 ++ 0b00#2 ++ 0b00010100#8, 1, 2, 0xFFFFFFFF, 4, 5] (.rect 1 2 (-1) 4 5) = true := by decide
theorem test_decode_rectB : codes [0#22 ++ 0b01#2 ++ 0b00010100#8, 1, 2, 3, 4, 5] (.rectB 1 2 3 4 5) = true := by decide
theorem test_decode_rectI : codes [0#22 ++ 0b10#2 ++ 0b00010100#8, 1, 2, 3, 4, 5] (.rectI 1 2 3 4 5) = true := by decide
theorem test_decode_fill : codes [0#22 ++ 0b00#2 ++ 0b00010101#8, 1, 2, 3, 4, 5] (.fill 1 2 3 4 5) = true := by decide
theorem test_decode_fillB : codes [0#22 ++ 0b01#2 ++ 0b00010101#8, 1, 2, 3, 4, 5] (.fillB 1 2 3 4 5) = true := by decide
theorem test_decode_fillI : codes [0#22 ++ 0b10#2 ++ 0b00010101#8, 1, 2, 3, 4, 5] (.fillI 1 2 3 4 5) = true := by decide
theorem test_decode_convert :
    codes [0#22 ++ 0b00#2 ++ 0b00100000#8, 0x2000, 0xFFFFFFFF, 4] (.convert 0x2000 0xFFFFFFFF 4) = true := by decide
theorem test_decode_upscale :
    codes [0#22 ++ 0b00#2 ++ 0b00100001#8, 0x200, 0x100, 3, 1, 2] (.upscale 0x200 0x100 3 1 2) = true := by decide
theorem test_decode_blit :
    codes [0#22 ++ 0b00#2 ++ 0b00110000#8, 7, 0xFFFFFFFF, 0x1000, 2, 3] (.blit 7 (-1) 0x1000 2 3) = true := by decide
theorem test_decode_blitB :
    codes [0#22 ++ 0b01#2 ++ 0b00110000#8, 0, 1, 0x200, 2, 3] (.blitB 0 1 0x200 2 3) = true := by decide
theorem test_decode_light :
    codes [0#22 ++ 0b00#2 ++ 0b00110001#8, 3, 4, 0x1000, 5, 6, 0xFFFFFFFF, 7, 0x00FFFFFF, 8, 0x00010100, 0x80]
      (.light 3 4 0x1000 5 6 (-1) 7 0x00FFFFFF 8 0x00010100 0x80) = true := by decide
theorem test_decode_lightB :
    codes [0#22 ++ 0b01#2 ++ 0b00110001#8, 3, 4, 0x1000, 5, 6, 0xFFFFFFFF, 7, 0x00FFFFFF, 8, 0x00010100, 0x80]
      (.lightB 3 4 0x1000 5 6 (-1) 7 0x00FFFFFF 8 0x00010100 0x80) = true := by decide

/-- H-2 to H-7 of 95_test_vectors.md: the errors of bad headers, in order, and the words they take. -/
theorem test_decode_errors :
    [(0x0000007F#32, CommandError.illegalOpcode, 1), (0x00000400#32, .reservedBits, 1), (0x00000401#32, .reservedBits, 7),
      (0x00000110#32, .badMode, 2), (0x00000300#32, .badMode, 1), (0x00000202#32, .badMode, 2),
      (0x00000230#32, .badMode, 6), (0xFFFFFFFF#32, .illegalOpcode, 1), (0x80000331#32, .reservedBits, 12)].all
      (fun p => decide (decodePacket p.1 [] = .error p.2.1) && decide (packetLength p.1 = p.2.2)) = true := by decide

/-- Rows of spec/opcode_table.json: the match word, and the command it is with zero operands. -/
def tableControl : List (Nat × Instr) :=
  [(0x000, .nop), (0x001, .init 0 0 0 0 0 0), (0x002, .signal 0), (0x102, .signalIrq 0), (0x003, .palAdd 0),
    (0x004, .palFind 0), (0x010, .clear 0), (0x210, .clearI 0)]

/-- Further rows: pixels and lines. -/
def tableLines : List (Nat × Instr) :=
  [(0x011, .pixel 0 0 0), (0x111, .pixelB 0 0 0), (0x211, .pixelI 0 0 0),
    (0x012, .line 0 0 0 0 0), (0x112, .lineB 0 0 0 0 0), (0x212, .lineI 0 0 0 0 0),
    (0x013, .linep 0 0 0 0 0), (0x113, .linepB 0 0 0 0 0), (0x213, .linepI 0 0 0 0 0)]

/-- Further rows: rectangles. -/
def tableRects : List (Nat × Instr) :=
  [(0x014, .rect 0 0 0 0 0), (0x114, .rectB 0 0 0 0 0), (0x214, .rectI 0 0 0 0 0),
    (0x015, .fill 0 0 0 0 0), (0x115, .fillB 0 0 0 0 0), (0x215, .fillI 0 0 0 0 0)]

/-- Further rows: buffers and sprites. -/
def tableBuffers : List (Nat × Instr) :=
  [(0x020, .convert 0 0 0), (0x021, .upscale 0 0 0 0 0), (0x030, .blit 0 0 0 0 0), (0x130, .blitB 0 0 0 0 0),
    (0x031, .light 0 0 0 0 0 0 0 0 0 0 0), (0x131, .lightB 0 0 0 0 0 0 0 0 0 0 0)]

/-- All 29 rows. -/
def tableRows : List (Nat × Instr) := [tableControl, tableLines, tableRects, tableBuffers].flatten

theorem test_table_decodes : tableRows.all (fun p => decide (decodeTableWord 32 p.1 = some p.2)) = true := by decide +kernel

/-- The very next step after the load runs the row's instruction. -/
theorem test_table_runs :
    tableRows.all (fun p => sameNext (step (State.reset.withFetchWord 32 p.1)) (exec p.2 State.reset)) = true := by
  decide +kernel

/-- With operand words in the table word: PAL_ADD of the second word (bits 63..32). -/
theorem test_table_operands : decodeTableWord 64 0xFF00000000000003 = some (.palAdd 0xFF000000) := by decide

/-! ### Control (95_test_vectors.md section 2.11) -/

theorem test_nop : nextIs (exec .nop { State.reset with cmdCount := 5 })
    (fun t => decide (t = { State.reset with cmdCount := 6 })) = true := by decide

/-- CMD_COUNT wraps (rule R32). -/
theorem test_nop_wraps : nextIs (exec .nop { State.reset with cmdCount := 0xFFFFFFFF }) (fun t => t.cmdCount == 0) = true := by
  decide

theorem test_init_ok : nextIs (exec (.init 8 100 100 0 0x2710 0xC350) { State.reset with pal := [1, 2] })
    (fun t => decide (t = { State.reset with
      cfgValid := true, cfgFactor := 8, cfgWidth := 100, cfgHeight := 100, cfgFbBase := 0x2710, cfgOutBase := 0xC350
      cmdCount := 1 })) = true := by decide

/-- I-2 to I-10: the first failing check is the one reported, CFG_VALID clears, the old width and the palette stay. -/
theorem test_init_errors :
    [(Instr.init 3 4 4 0 0x40 0x80, 0x01#8), (.init 3 2 4 0 0x40 0x80, 0x01), (.init 1 2 4 0 0x40 0x80, 0x02),
      (.init 1 0 0 0 0x40 0x80, 0x02), (.init 1 6 4 0 0x60 0xC0, 0x03), (.init 1 4 4 0 0x42 0x80, 0x0A),
      (.init 1 4 4 0 0x40 0x3FFFC4, 0x04), (.init 1 4 4 0 0x40 0x60, 0x0B), (.init 1 4 4 0x3C 0x40 0x80, 0x0B)].all
      (fun p => errorIs p.1 { s4 with pal := [black] } p.2 &&
        nextIs (exec p.1 { s4 with pal := [black] }) fun t =>
          !t.cfgValid && t.cfgWidth == 4 && decide (t.pal = [black])) = true := by decide

theorem test_signal : nextIs (exec (.signal 1) State.reset) (fun t => t.signal == 1 && t.irqStatus == 0) = true := by decide

theorem test_signalIrq : nextIs (exec (.signalIrq 7) { State.reset with irqEnable := 1 })
    (fun t => t.signal == 7 && t.irqStatus == 1 && t.cmdCount == 1 && irqLine t) = true := by decide

/-! ### Palette (section 2.3) -/

theorem test_palAdd : nextIs (exec (.palAdd 0xFFFFFFFF) { State.reset with pal := [black] })
    (fun t => t.result == 1 && decide (t.pal = [black, 0xFFFFFFFF])) = true := by decide

/-- The 256 words 0 to 255 of P-2. -/
def fullPalette : List Word := (List.range 256).map (BitVec.ofNat 32)

/-- P-3 and P-4: a full palette ignores a new colour and still finds an old one. -/
theorem test_palAdd_full :
    (nextIs (exec (.palAdd 0x12345678) { State.reset with pal := fullPalette })
      (fun t => t.result == 0xFFFFFFFF && decide (t.pal = fullPalette)) &&
    nextIs (exec (.palAdd 200) { State.reset with pal := fullPalette })
      (fun t => t.result == 200 && decide (t.pal = fullPalette))) = true := by decide +kernel

theorem test_palFind : nextIs (exec (.palFind 0xFFFFFFFF) { State.reset with pal := [black, 0xFFFFFFFF] })
    (fun t => t.result == 1) = true := by decide

/-- P-6: an entry beyond PAL_SIZE reads 0 and never matches. -/
theorem test_palFind_empty : nextIs (exec (.palFind 0) State.reset) (fun t => t.result == 0xFFFFFFFF) = true := by decide

/-! ### Compositing and lines (sections 2.2 and 2.5) -/

theorem test_blend :
    [(0x800000FF#32, 0xFF000000#32, 0xFF000080#32), (0x800000FF, 0xFF000080, 0xFF0000C0), (0x800000FF, 0xFF0000C0, 0xFF0000E0),
      (0x0100FF00, 0x281E140A, 0x291E150A), (0xFEC89664, 0, 0xFEC79564), (0x80FFFFFF, 0, 0x80808080),
      (0x80000000, 0xFFFFFFFF, 0xFF7F7F7F), (0xC8785028, 0x643264C8, 0xDE69544B), (0x00030201, 0x06070809, 0x06070809),
      (0xFF030201, 0x06070809, 0xFF030201)].all (fun p => blend p.1 p.2.1 == p.2.2) = true := by decide

theorem test_bresenham :
    bresenhamPixels 0 0 0 0 = [(0, 0)] ∧ bresenhamPixels 0 0 2 1 = [(0, 0), (1, 0), (2, 1)] ∧
    bresenhamPixels 0 0 4 2 = [(0, 0), (1, 0), (2, 1), (3, 1), (4, 2)] ∧
    bresenhamPixels 4 2 0 0 = [(4, 2), (3, 2), (2, 1), (1, 1), (0, 0)] ∧
    bresenhamPixels 0 0 1 3 = [(0, 0), (0, 1), (1, 2), (1, 3)] ∧ bresenhamPixels 0 0 (-2) (-1) = [(0, 0), (-1, 0), (-2, -1)] := by
  decide

theorem test_parametric :
    paramPixels 0 0 0 0 = [(0, 0)] ∧ paramPixels 0 0 2 1 = [(0, 0), (1, 1), (2, 1)] ∧
    paramPixels 0 0 4 2 = [(0, 0), (1, 1), (2, 1), (3, 2), (4, 2)] ∧
    paramPixels 4 2 0 0 = [(4, 2), (3, 2), (2, 1), (1, 1), (0, 0)] ∧
    paramPixels 0 0 2 (-1) = [(0, 0), (1, 0), (2, -1)] ∧ paramPixels 0 3 3 0 = [(0, 3), (1, 2), (2, 1), (3, 0)] := by
  decide

/-! ### Drawing (sections 2.4 to 2.6) -/

theorem test_clear : nextIs (exec (.clear black) s4) (fun t => decide (t.mem = k4.mem) && t.cmdCount == 1) = true := by
  decide +kernel

theorem test_clearI : nextIs (exec (.clearI 5) s4)
    (fun t => decide (t.mem = (List.range 16).map fun a => (a, 5#8))) = true := by decide +kernel

theorem test_pixel : nextIs (exec (.pixel 3 1 0x04030201) s4)
    (fun t => decide (t.mem = [(0x5C, 1#8), (0x5D, 2#8), (0x5E, 3#8), (0x5F, 4#8)])) = true := by decide +kernel

/-- W3: clipped on every side. -/
theorem test_pixel_clipped :
    [Instr.pixel (-1) 0 9, .pixel 4 0 9, .pixel 0 4 9, .pixel 0 (-1) 9].all
      (fun i => nextIs (exec i s4) fun t => decide (t = { s4 with cmdCount := 1 })) = true := by decide +kernel

theorem test_pixelB : nextIs (exec (.pixelB 1 2 halfRed) k4)
    (fun t => fbPixel t 1 2 == 0xFF000080 && fbPixel t 2 1 == black) = true := by decide +kernel

theorem test_pixelI : nextIs (exec (.pixelI 3 0 9) s4) (fun t => decide (t.mem = [(3, 9#8)])) = true := by decide +kernel

theorem test_line : nextIs (exec (.line (-2) 1 2 1 0xFFFF0000) k4) (fun t => decide (fbRows t =
    [[black, black, black, black], [0xFFFF0000, 0xFFFF0000, 0xFFFF0000, black], [black, black, black, black],
      [black, black, black, black]])) = true := by decide +kernel

theorem test_lineB : nextIs (exec (.lineB 0 0 3 0 halfRed) k4)
    (fun t => decide ((fbRows t).head? = some (List.replicate 4 0xFF000080#32))) = true := by decide +kernel

theorem test_lineI : nextIs (exec (.lineI 0 0 3 3 7) s4) (fun t => decide (idxRows t =
    [[7, 0, 0, 0], [0, 7, 0, 0], [0, 0, 7, 0], [0, 0, 0, 7]])) = true := by decide +kernel

theorem test_linep : nextIs (exec (.linep 0 0 2 1 0xFFFF0000) s4) (fun t => decide ((fbRows t).take 2 =
    [[0xFFFF0000, 0, 0, 0], [0, 0xFFFF0000, 0xFFFF0000, 0]])) = true := by decide +kernel

theorem test_linepB : nextIs (exec (.linepB 0 0 2 1 halfRed) k4) (fun t => decide ((fbRows t).take 2 =
    [[0xFF000080, black, black, black], [black, 0xFF000080, 0xFF000080, black]])) = true := by decide +kernel

theorem test_linepI : nextIs (exec (.linepI 0 0 2 1 7) s4) (fun t => decide ((idxRows t).take 2 =
    [[7, 0, 0, 0], [0, 7, 7, 0]])) = true := by decide +kernel

/-- Rc-1, on S8. -/
theorem test_rect : nextIs (exec (.rect 1 1 3 2 0xFFFFFFFF) s8) (fun t => decide ((fbRows t).take 4 =
    [List.replicate 8 0, [0, 0xFFFFFFFF, 0xFFFFFFFF, 0xFFFFFFFF, 0, 0, 0, 0],
      [0, 0xFFFFFFFF, 0xFFFFFFFF, 0xFFFFFFFF, 0, 0, 0, 0], List.replicate 8 0])) = true := by decide +kernel

/-- Rc-5: no width or no height draws nothing. -/
theorem test_rect_empty :
    [Instr.rect 0 0 0 5 9, .rect 0 0 4 (-1) 9].all
      (fun i => nextIs (exec i s4) fun t => decide (t = { s4 with cmdCount := 1 })) = true := by decide +kernel

/-- Rc-2 and Rc-3: corners are blended twice, and three times when h = 1. -/
theorem test_rectB :
    (nextIs (exec (.rectB 0 0 2 2 halfRed) k4) (fun t => decide ((fbRows t).take 2 =
      [[0xFF0000C0, 0xFF0000C0, black, black], [0xFF0000C0, 0xFF0000C0, black, black]])) &&
    nextIs (exec (.rectB 0 0 3 1 halfRed) k4) (fun t => decide ((fbRows t).head? =
      some [0xFF0000E0, 0xFF0000C0, 0xFF0000E0, black]))) = true := by decide +kernel

/-- Rc-4: a single pixel is blended four times. -/
theorem test_rectB_point : nextIs (exec (.rectB 0 0 1 1 halfRed) k4) (fun t => fbPixel t 0 0 == 0xFF0000F0) = true := by
  decide +kernel

/-- Program 2's border. -/
theorem test_rectI : nextIs (exec (.rectI 0 0 4 4 1) s4) (fun t => decide (idxRows t =
    [[1, 1, 1, 1], [1, 0, 0, 1], [1, 0, 0, 1], [1, 1, 1, 1]])) = true := by decide +kernel

/-- F-1: only the pixel at the origin is on screen. -/
theorem test_fill : nextIs (exec (.fill (-1) (-1) 2 2 0x04030201) s4)
    (fun t => decide (t.mem = [(0x40, 1#8), (0x41, 2#8), (0x42, 3#8), (0x43, 4#8)])) = true := by decide +kernel

/-- F-2: a negative width draws nothing. -/
theorem test_fill_empty : nextIs (exec (.fill 1 1 (-2) 2 9) s4) (fun t => decide (t = { s4 with cmdCount := 1 })) = true := by
  decide +kernel

theorem test_fillB : nextIs (exec (.fillB 1 1 2 2 halfRed) k4) (fun t => decide (fbRows t =
    [[black, black, black, black], [black, 0xFF000080, 0xFF000080, black], [black, 0xFF000080, 0xFF000080, black],
      [black, black, black, black]])) = true := by decide +kernel

theorem test_fillI : nextIs (exec (.fillI 1 1 2 2 3) s4) (fun t => decide (idxRows t =
    [[0, 0, 0, 0], [0, 3, 3, 0], [0, 3, 3, 0], [0, 0, 0, 0]])) = true := by decide +kernel

/-- H-9, H-10, X-2, and the order of the two checks. -/
theorem test_draw_errors :
    (errorIs (.pixelI 0 0 0x100) s4 0x0C && errorIs (.clearI 0x105) s4 0x0C && errorIs (.pixel 0 0 black) State.reset 0x08 &&
      errorIs (.fillI 0 0 1 1 0x100) State.reset 0x08) = true := by decide

/-! ### Converter and upscaler (sections 2.7 and 2.8) -/

/-- The palette of section 2.7. -/
def pal2 : State := { State.reset with pal := [0xFF000000, 0xFF0000FF] }

/-- C-1, then C-2: an index at or beyond PAL_SIZE gathers 0. -/
theorem test_convert :
    (nextIs (exec (.convert 0x2000 0x1000 4) { pal2 with mem := [(0x1001, 1#8), (0x1002, 1#8)] })
      (fun t => decide ((List.range 4).map (fun i => readWord t.mem (0x2000 + 4 * i)) =
        [0xFF000000, 0xFF0000FF, 0xFF0000FF, 0xFF000000])) &&
    nextIs (exec (.convert 0x2000 0x1000 2) { pal2 with mem := [(0x1000, 2#8), (0x1001, 0xFF#8)] })
      (fun t => decide (t.mem = [(0x1000, 2#8), (0x1001, 0xFF#8)]))) = true := by decide +kernel

/-- C-3 to C-8. -/
theorem test_convert_edges :
    (nextIs (exec (.convert 0x2000 0x1000 0) pal2) (fun t => decide (t = { pal2 with cmdCount := 1 })) &&
      errorIs (.convert 0x2001 0x1000 0) pal2 0x0A && errorIs (.convert 0x1000 0x1003 4) pal2 0x0B &&
      nextIs (exec (.convert 0x1000 0x1010 4) pal2) (fun t => t.errCode == 0) &&
      errorIs (.convert 0 0x3FFFFF 2) pal2 0x09 && errorIs (.convert 0x1001 0x3FFFFF 2) pal2 0x0A) = true := by
  decide +kernel

/-- U-2: width 3, factor 2. -/
theorem test_upscale :
    nextIs (exec (.upscale 0x200 0x100 3 1 2) (withWords 0x100 [0x04030201, 0x08070605, 0x09090909] State.reset))
      (fun t => decide ((List.range 12).map (fun i => readWord t.mem (0x200 + 4 * i)) =
        [0x04030201, 0x04030201, 0x08070605, 0x08070605, 0x09090909, 0x09090909,
          0x04030201, 0x04030201, 0x08070605, 0x08070605, 0x09090909, 0x09090909])) = true := by decide +kernel

/-- U-3 to U-6 and U-9. -/
theorem test_upscale_edges :
    (errorIs (.upscale 0x200 0x100 2 1 3) State.reset 0x01 && errorIs (.upscale 0x202 0x100 1 1 3) State.reset 0x01 &&
      errorIs (.upscale 0x100 0x100 1 1 1) State.reset 0x0B && errorIs (.upscale 0x3FFFF0 0x100 2 2 2) State.reset 0x09 &&
      nextIs (exec (.upscale 0x200 0x100 0 5 8) State.reset)
        (fun t => decide (t = { State.reset with cmdCount := 1 }))) = true := by decide +kernel

/-! ### Sprites and light (sections 2.9 and 2.10) -/

/-- B-1, on S8: only the sprite pixel P2 is on screen. -/
theorem test_blit :
    nextIs (exec (.blit 7 (-1) 0x1000 2 2)
      (withWords 0x1000 [0xFF00000A, 0xFF000014, 0xFF00001E, 0xFF000028] s8))
      (fun t => fbPixel t 7 0 == 0xFF00001E && fbPixel t 0 0 == 0 && fbPixel t 0 1 == 0 && fbPixel t 6 0 == 0
        && fbPixel t 7 1 == 0) = true := by decide +kernel

/-- B-2, B-4, B-6, B-8: a copy takes alpha 0 too; the region errors. -/
theorem test_blit_edges :
    (nextIs (exec (.blit 0 0 0x1000 1 1) (withWords 0x1000 [0x00030201] s4)) (fun t => fbPixel t 0 0 == 0x00030201) &&
      errorIs (.blit 0 0 0x7C 1 1) s4 0x0B && errorIs (.blit 0 0 0x1002 1 1) s4 0x0A &&
      errorIs (.blit 0 0 0x1000 1 1) State.reset 0x08 && errorIs (.blit 0 0 0x3FFFFC 2 1) s4 0x09 &&
      nextIs (exec (.blit 0 0 0x80 1 1) s4) (fun t => t.errCode == 0)) = true := by decide +kernel

/-- B-2 and B-3. -/
theorem test_blitB :
    nextIs (exec (.blitB 0 0 0x1000 2 1) (withWords 0x1000 [0x80FFFFFF, 0x00030201] k4))
      (fun t => fbPixel t 0 0 == 0xFF808080 && fbPixel t 1 0 == black) = true := by decide +kernel

/-- The table of Shade values of section 2.10, as (source, light channel, ambient, intensity, enable, range, d², result). -/
theorem test_shade :
    [(200, 255, 64, 256, true, 10, 0, 250), (100, 128, 64, 256, true, 10, 0, 75), (50, 0, 64, 256, true, 10, 0, 12),
      (200, 255, 64, 256, true, 10, 25, 200), (200, 255, 64, 256, true, 10, 100, 50), (200, 255, 64, 512, true, 10, 0, 255),
      (200, 255, 64, 256, false, 10, 0, 50), (200, 255, 64, 256, true, 0, 0, 50), (10, 9, 384, 9, true, 0, 0, 15),
      (128, 255, 128, 256, true, 2, 1, 160), (200, 255, 128, 256, true, 3, 8, 122)].all
      (fun (s, l, a, i, e, r, d, q) =>
        decide (shadeChannel { x := 0, y := 0, color := 0, range := r, intensity := i, enable := e, ambient := a } d s l = q))
      = true := by decide

/-- The sprite of Lt-1. -/
def litSprite : List Word := [0xFF3264C8, 0x003264C8, 0x803264C8]

/-- Lt-1. -/
theorem test_light :
    nextIs (exec (.light 0 0 0x1000 3 1 0 0 0x000080FF 10 0x00010100 0x40) (withWords 0x1000 litSprite k4))
      (fun t => decide ((fbRows t).head? = some [0xFF0C4BFA, black, 0x800C49F2, black])) = true := by decide +kernel

/-- Lt-4, Lt-5, and the order of the checks. -/
theorem test_light_errors :
    (errorIs (.light 0 0 0x1000 1 1 0 0 0 1 0x00020000 0) s4 0x0C && errorIs (.light 0 0 0x1000 1 1 0 0 0 1 0 0x00010000) s4 0x0C &&
      errorIs (.light 0 0 0x1000 1 1 0 0 0 1 0x00020000 0) State.reset 0x08 &&
      errorIs (.light 0 0 0x1002 1 1 0 0 0 1 0x00020000 0) s4 0x0C && errorIs (.light 0 0 0x1002 1 1 0 0 0 1 0 0) s4 0x0A) = true := by
  decide

/-- Lt-2. -/
theorem test_lightB :
    nextIs (exec (.lightB 0 0 0x1000 3 1 0 0 0x000080FF 10 0x00010100 0x40) (withWords 0x1000 litSprite k4))
      (fun t => decide ((fbRows t).head? = some [0xFF0C4BFA, black, 0xFF062579, black])) = true := by decide +kernel

/-! ### Ports and reset (sections 2.1 and 2.11) -/

/-- The host reads ID, RESULT and PALETTE[1] (rule R22). -/
theorem test_register_reads :
    [(0x000#32, 0x4C554D01#32), (0x020#32, 1#32), (0x404#32, 0xFFFFFFFF#32)].all (fun p =>
      nextIs (step { State.reset with
          pal := [black, 0xFFFFFFFF], result := 1, port := [.access (.regRead p.1 .word)] })
        fun t => decide (t.portResponse = some ⟨p.2, false⟩)) = true := by decide

/-- An engine turn of an idle engine changes nothing; one at an illegal header raises (rules R46, R87). -/
theorem test_engine_turn :
    (nextIs (step { State.reset with port := [.engineTurn] }) (fun t => decide (t = State.reset)) &&
      nextIs (step { State.reset with fifo := [0x7F, 1], port := [.engineTurn, .engineTurn] })
        (fun t => t.errCode == 5 && t.halted && decide (t.fifo = [1]) && decide (t.port = [.engineTurn]))) = true := by
  decide

/-- One register write of the host. -/
def hostWrite (off v : Word) (s : State) : State := { s with port := [.access (.regWrite off .word v)] }

/-- A state with a full FIFO, halted by the header 0x7F. -/
def fullFifo : State :=
  { State.reset with
    fifo := List.replicate 64 0, halted := true, errCode := 0x05, errHeader := 0x7F, irqStatus := 0b010 }

/-- FIFO overflow: a bus error, IRQ_STATUS = 6, STATUS.OVF, and the FIFO keeps its words. -/
theorem test_overflow : nextIs (step (hostWrite 0x01C 0 fullFifo))
    (fun t => decide (t.portResponse = some ⟨0, true⟩) && t.irqStatus == 6 && decide (t.fifo = fullFifo.fifo)
      && registerRead 0x008 .word t == 0x00400032) = true := by decide +kernel

/-- CTRL = 7 is a soft reset alone: the reset state, PMEM unchanged. -/
theorem test_soft_reset : nextIs (step (hostWrite 0x004 7 { k4 with pal := [5], cmdCount := 2, irqEnable := 7 }))
    (fun t => decide (t = { State.reset with mem := k4.mem, portResponse := some ⟨0, false⟩ })) = true := by
  decide +kernel

/-- CTRL = 2 resumes and keeps ERR_HEADER and IRQ_STATUS; CTRL = 6 flushes first. -/
theorem test_resume :
    (nextIs (step (hostWrite 0x004 2 fullFifo)) (fun t => !t.halted && t.errCode == 0 && t.errHeader == 0x7F
      && t.irqStatus == 2 && decide (t.fifo = fullFifo.fifo)) &&
    nextIs (step (hostWrite 0x004 6 fullFifo)) (fun t => !t.halted && decide (t.fifo = []))) = true := by decide +kernel

/-- H-8: an incomplete LINE does not step, and is no error. -/
theorem test_incomplete_packet :
    nextIs (step { State.reset with fifo := [0x12, 0, 0] })
      (fun t => decide (t = { State.reset with fifo := [0x12, 0, 0] }) && registerRead 0x008 .word t == 0x00030000) = true := by
  decide +kernel

/-- H-2: an illegal header takes one word. -/
theorem test_illegal_header :
    nextIs (step { State.reset with fifo := [0x7F, 1, 2] })
      (fun t => t.errCode == 5 && t.errHeader == 0x7F && decide (t.fifo = [1, 2]) && t.cmdCount == 0) = true := by decide

/-- A host memory access behind a ready NOP waits for it. -/
theorem test_held_access :
    nextIs (step { State.reset with fifo := [0], port := [.access (.memWriteByte 0 1)] })
      (fun t => t.cmdCount == 1 && decide (t.mem = []) && decide (t.port = [.access (.memWriteByte 0 1)])) = true := by decide

/-- Rule R245: an idle block has ended its run; an incomplete packet or an access still to come has not. -/
theorem test_run_ended :
    runEnded State.reset = true ∧ runEnded { State.reset with fifo := [0x12, 0, 0] } = false ∧
    runEnded { State.reset with port := [.access (.memReadByte 0)] } = false := by decide

/-! ### Assembler (rules R93, R94; the words of 95_test_vectors.md) -/

/-- Program 1's configuration. -/
def cfg1 : State := { s4 with cfgFactor := 2, cfgFbBase := 0x100, cfgOutBase := 0x200 }

theorem test_asm_lines :
    assembleLine cfg1 "FILL.B  1, 1, 2, 2, rgba(255,0,0,128); blended".toList = some [0x115, 1, 1, 2, 2, 0x800000FF] ∧
    assembleLine cfg1 "LINE -2, 1, 2, 1, rgba(0,0,255,255)".toList = some [0x12, 0xFFFFFFFE, 1, 2, 1, 0xFFFF0000] ∧
    assembleLine cfg1 "; a comment".toList = some [] ∧
    assembleLine cfg1 "INIT 2, 4, 4, 0x0, 0x100, 0x200".toList = some [1, 2, 4, 4, 0, 0x100, 0x200] := by decide +kernel

theorem test_asm_light :
    assembleLine cfg1 "LIGHT 3, 0, 0x1000, 1, 1, 0, 0, rgba(255,255,255,0), 3, 256, 1, 128".toList =
      some [0x31, 3, 0, 0x1000, 1, 1, 0, 0, 0x00FFFFFF, 3, 0x00010100, 0x80] := by decide +kernel

theorem test_asm_pseudo :
    assembleLine cfg1 "UPSCALE.FRAME".toList = some [0x21, 0x200, 0x100, 4, 4, 2] ∧
    assembleLine s4 "CONVERT.FRAME".toList = some [0x20, 0x40, 0, 0x10] ∧
    assembleLine cfg1 "SETPIX 1, 2, 3".toList = some [0x11, 1, 2, 3] ∧
    assembleLine cfg1 "BLENDPIX 1, 2, 3".toList = some [0x111, 1, 2, 3] := by decide +kernel

/-- Refused lines: an unknown mnemonic, a missing operand, a channel above 255. -/
theorem test_asm_refuses :
    assembleLine cfg1 "CLEAR.B 0".toList = none ∧ assembleLine cfg1 "PIXEL 0, 0".toList = none ∧
    assembleLine cfg1 "CLEAR rgba(256,0,0,0)".toList = none := by decide +kernel

/-! ### Witnesses: for every obligation with hypotheses, states and operands that meet them, clause by clause -/

theorem of_nextIs {r : Result} {p : State → Bool} (h : nextIs r p = true) : ∃ t, r = .next t ∧ p t = true := by
  unfold nextIs at h
  split at h
  · exact ⟨_, rfl, h⟩
  · exact absurd h (by decide)
  · exact absurd h (by decide)

theorem reference_legal : Config.reference.Legal := by constructor <;> decide

theorem s4_config : ConfigOk s4 := by constructor <;> decide

/-- The state most drawing obligations are about: their hypotheses `Inv s` and `s.cfgValid = true`. -/
theorem s4_inv : Inv s4 where
  params := reference_legal
  mem := ⟨rfl, fun _ h => nomatch h⟩
  fifo := Nat.zero_le _
  halted_iff := by decide
  code := by decide
  pal_size := Nat.zero_le _
  pal_nodup := List.nodup_nil
  config := fun _ => s4_config

theorem reset_inv : Inv State.reset where
  params := reference_legal
  mem := ⟨rfl, fun _ h => nomatch h⟩
  fifo := Nat.zero_le _
  halted_iff := by decide
  code := by decide
  pal_size := Nat.zero_le _
  pal_nodup := List.nodup_nil
  config := fun h => nomatch h

/-- A halted state with a full FIFO meets the invariant too. -/
theorem fullFifo_inv : Inv fullFifo where
  params := reference_legal
  mem := ⟨rfl, fun _ h => nomatch h⟩
  fifo := by decide
  halted_iff := by decide
  code := by decide
  pal_size := Nat.zero_le _
  pal_nodup := List.nodup_nil
  config := fun h => nomatch h

/-- A read of STATUS while a packet is ready; the entry at 255, the last of the window, and one beyond PAL_SIZE. -/
theorem witness_RegisterMapReads :
    (∃ s : State, s.port = .access (.regRead 0x008#32 .word) :: [] ∧ busy s = true) ∧
    (registerRead 0x7FC#32 .word { s4 with pal := fullPalette } = 255 ∧
      255 < ({ s4 with pal := fullPalette } : State).pal.length) ∧
    registerRead 0x404#32 .word { s4 with pal := [black] } = 0 :=
  ⟨⟨{ s4 with fifo := [0], port := [.access (.regRead 0x008#32 .word)] }, rfl, rfl⟩, by decide +kernel, by decide +kernel⟩

theorem witness_CtrlWriteTakesEffectInOrder :
    ((hostWrite 0x004 7 fullFifo).port = .access (.regWrite 0x004#32 .word 7#32) :: [] ∧ (7#32).getLsbD 0 = true) ∧
    ((hostWrite 0x004 6 fullFifo).port = .access (.regWrite 0x004#32 .word 6#32) :: [] ∧ (6#32).getLsbD 0 = false) := by
  decide

/-- The fullest FIFO there can be: 255 words, with FIFO_DEPTH = 255. -/
theorem witness_StatusFieldsReport :
    ({ fullFifo with fifo := List.replicate 255 0 } : State).fifo.length ≤ 255 ∧ Config.reference.Legal ∧
    Params.Legal { pmemSize := 4096, fifoDepth := 255, minDim := 100 } := by
  refine ⟨by decide +kernel, reference_legal, ?_⟩
  constructor <;> decide

theorem witness_InterruptRegistersAndLine :
    ((hostWrite 0x014 0x7 fullFifo).port = .access (.regWrite 0x014#32 .word 0x7#32) :: [] ∧
      (0x7#32).extractLsb' 0 3 = 0b111#3) ∧
    ((hostWrite 0x018 0xFFFFFFF8 fullFifo).port = .access (.regWrite 0x018#32 .word 0xFFFFFFF8#32) :: [] ∧
      (0xFFFFFFF8#32).extractLsb' 0 3 = 0#3) := by decide

/-- Room for one word, no room, and a read. -/
theorem witness_FifoWriteAppendsOrOverflows :
    (∃ s : State, s.port = .access (.regWrite 0x01C#32 .word 9#32) :: [] ∧ s.fifo.length + 1 = s.params.fifoDepth) ∧
    (∃ s : State, s.port = .access (.regWrite 0x01C#32 .word 9#32) :: [] ∧ s.params.fifoDepth = s.fifo.length) ∧
    (∃ s : State, s.port = .access (.regRead 0x01C#32 .word) :: []) :=
  ⟨⟨hostWrite 0x01C 9 { s4 with fifo := List.replicate 63 0 }, by decide +kernel⟩,
    ⟨hostWrite 0x01C 9 fullFifo, by decide +kernel⟩,
    ⟨{ s4 with port := [.access (.regRead 0x01C#32 .word)] }, rfl⟩⟩

/-- Each ground of rule R33 at its edge: a half-word access, an offset not a multiple of 4, the first and the last unmapped
offset between the registers and the palette, the first above it; a read-only register and the palette window. -/
theorem witness_IgnoredRegisterAccesses :
    (AccessSize.half ≠ .word ∧ (0x01D#32).toNat % 4 ≠ 0 ∧
      (0x054 ≤ (0x054#32).toNat ∧ (0x3FC#32).toNat < 0x400) ∧ 0x800 ≤ (0x800#32).toNat) ∧
    ((0x000#32).toNat ≠ 0x004 ∧ (0x000#32).toNat ≠ 0x014 ∧ (0x000#32).toNat ≠ 0x018 ∧ (0x000#32).toNat ≠ 0x01C) ∧
    ((0x7FC#32).toNat ≠ 0x004 ∧ (0x7FC#32).toNat ≠ 0x014 ∧ (0x7FC#32).toNat ≠ 0x018 ∧ (0x7FC#32).toNat ≠ 0x01C) ∧
    (hostWrite 0x7FC 1 s4).port = .access (.regWrite 0x7FC#32 .word 1#32) :: [] := by
  refine ⟨by decide, by decide, by decide, rfl⟩

/-- Halted; empty, at an engine turn; and a LIGHT one word short. -/
theorem witness_HaltedOrIncompleteEngineWaits :
    (fullFifo.port = [] ∧ fullFifo.halted = true) ∧
    (∃ s : State, s.port = .engineTurn :: [.resetInput] ∧ s.fifo = []) ∧
    (11 < packetLength 0x31#32 ∧ (List.replicate 10 0#32).length + 1 = 11) :=
  ⟨by decide, ⟨{ s4 with port := [.engineTurn, .resetInput] }, rfl, rfl⟩, by decide⟩

/-- The last byte and word of PMEM and the first beyond; a misaligned word; with no packet waiting. -/
theorem witness_MemoryPortAccesses :
    Inv s4 ∧ busy s4 = false ∧
    ((0x3FFFFF#32).toNat < s4.params.pmemSize ∧ s4.params.pmemSize ≤ (0x400000#32).toNat) ∧
    ((0x3FFFFC#32).toNat % 4 = 0 ∧ (0x3FFFFC#32).toNat + 4 ≤ s4.params.pmemSize) ∧
    (2#32).toNat % 4 ≠ 0 ∧ s4.params.pmemSize < (0x400000#32).toNat + 4 :=
  ⟨s4_inv, by decide, by decide, by decide, by decide, by decide⟩

theorem witness_MemoryPortAccesses_port (e : PortEvent) :
    Inv { s4 with port := [e] } ∧ busy { s4 with port := [e] } = false :=
  ⟨s4_inv.setPort [e], rfl⟩

theorem witness_MemoryAccessIsHeldWhileBusy :
    (∃ s : State, s.port = .access (.memReadByte 0) :: [] ∧ isMemAccess (.memReadByte 0) = true ∧ busy s = true) ∧
    (∃ s : State, s.port = .access (.memReadByte 0) :: [] ∧ isMemAccess (.memReadByte 0) = true ∧ busy s = false) :=
  ⟨⟨{ s4 with fifo := [0], port := [.access (.memReadByte 0)] }, by decide⟩,
    ⟨{ s4 with port := [.access (.memReadByte 0)] }, by decide⟩⟩

theorem witness_StepRunsDecodedInstruction :
    (Instr.pixel (-2 ^ 31) (2 ^ 31 - 1) 9).wellFormed = true ∧ s4.halted = false ∧
    ({ s4 with fifo := [0x11, 0x80000000, 0x7FFFFFFF, 9, 0] } : State).fifo = encode (.pixel (-2 ^ 31) (2 ^ 31 - 1) 9) ++ [0] := by
  decide

/-- The three ways the engine is next, with an illegal header ready. -/
theorem witness_MalformedHeaderRaisesItsError_turn :
    EngineIsNext { s4 with fifo := [0x7F] } [] ∧
    EngineIsNext { s4 with fifo := [0x7F], port := [.engineTurn, .resetInput] } [.resetInput] ∧
    EngineIsNext { s4 with fifo := [0x7F], port := [.access (.memReadByte 0)] } [.access (.memReadByte 0)] :=
  ⟨.inl ⟨rfl, rfl⟩, .inr (.inl rfl), .inr (.inr ⟨.memReadByte 0, [], rfl, rfl, rfl, rfl⟩)⟩

/-- One header for each of the three errors; the last has a legal opcode, clear reserved bits and no mnemonic. -/
theorem witness_MalformedHeaderRaisesItsError :
    (packetLength 0x7F#32 ≤ [1#32].length + 1 ∧ opcodeLength (headerOpcode 0x7F#32) = none) ∧
    (packetLength 0x400#32 ≤ [1#32].length + 1 ∧ opcodeLength (headerOpcode 0x400#32) ≠ none ∧ headerReserved 0x400#32 ≠ 0) ∧
    (packetLength 0x300#32 ≤ [1#32].length + 1 ∧ opcodeLength (headerOpcode 0x300#32) ≠ none ∧ headerReserved 0x300#32 = 0 ∧
      ∀ i : Instr, headerWord i ≠ 0x300#32) := by
  refine ⟨by decide, by decide, by decide, by decide, by decide, fun i => ?_⟩
  cases i <;> simp [headerWord, headerValue]

theorem witness_DecodeOfEncodeIsIdentity :
    (Instr.light (-2 ^ 31) (2 ^ 31 - 1) (2 ^ 32 - 1) 0 1 (-1) 1 0xFFFFFFFF (2 ^ 32 - 1) 0xFFFFFFFF 0xFFFFFFFF).wellFormed = true := by
  decide

theorem witness_EncodeOfDecodeIsIdentity :
    [0xFFFFFFFF#32, 0x80000000#32, 9#32].length + 1 = packetLength 0x11#32 ∧
    decodePacket 0x11#32 [0xFFFFFFFF#32, 0x80000000#32, 9#32] = .instr (.pixel (-1) (-2 ^ 31) 9) := by decide

theorem fullPalette_nodup : fullPalette.Nodup := by
  refine List.Nodup.map_on (fun a ha b hb h => ?_) List.nodup_range
  have ha := List.mem_range.1 ha
  have hb := List.mem_range.1 hb
  have h := congrArg BitVec.toNat h
  simp only [BitVec.toNat_ofNat] at h
  omega

/-- The last of 256 entries; a new colour with 255 entries; a new colour with 256. -/
theorem witness_PalAddResult :
    (255 < fullPalette.length ∧ fullPalette.Nodup ∧ fullPalette[255]? = some 0xFF#32) ∧
    (0xFF#32 ∉ fullPalette.take 255 ∧ (fullPalette.take 255).length < 256) ∧
    (0x100#32 ∉ fullPalette ∧ 256 ≤ fullPalette.length) :=
  ⟨⟨by decide +kernel, fullPalette_nodup, by decide +kernel⟩, by decide +kernel, by decide +kernel⟩

theorem witness_PalFindResult :
    (255 < fullPalette.length ∧ fullPalette.Nodup ∧ fullPalette[255]? = some 0xFF#32) ∧ 0#32 ∉ ([] : List Word) :=
  ⟨⟨by decide +kernel, fullPalette_nodup, by decide +kernel⟩, by decide⟩

theorem witness_PalAddThenFindAgree :
    fullPalette.length ≤ 256 ∧ (0x100#32 ∉ fullPalette ∧ fullPalette.length = 256) ∧ 0xFF#32 ∈ fullPalette := by decide +kernel

theorem witness_BlendFastPaths : alphaOf 0x00030201#32 = 0 ∧ alphaOf 0xFF030201#32 = 255 := by decide

/-- Of every drawing obligation: a state with `Inv` and a valid configuration, and the largest legal index value. -/
theorem witness_drawing : Inv s4 ∧ s4.cfgValid = true ∧ indexReserved 0xFF#32 = 0 := ⟨s4_inv, by decide, by decide⟩

theorem witness_PixelCommandsWriteOnePixel : Inv s4 ∧ s4.cfgValid = true ∧ indexReserved 0xFF#32 = 0 := witness_drawing
theorem witness_ClearCommandsFillTheirTarget : Inv s4 ∧ s4.cfgValid = true ∧ indexReserved 0xFF#32 = 0 := witness_drawing
theorem witness_LineWritesBresenhamPixels : Inv s4 ∧ s4.cfgValid = true ∧ indexReserved 0xFF#32 = 0 := witness_drawing
theorem witness_LineBlendsEachPixelOnce : Inv s4 ∧ s4.cfgValid = true := ⟨s4_inv, rfl⟩
theorem witness_LinepWritesParamPixels : Inv s4 ∧ s4.cfgValid = true ∧ indexReserved 0xFF#32 = 0 := witness_drawing
theorem witness_LinepBlendsEachPixelOnce : Inv s4 ∧ s4.cfgValid = true := ⟨s4_inv, rfl⟩
theorem witness_RectWritesTheBoundary : Inv s4 ∧ s4.cfgValid = true ∧ indexReserved 0xFF#32 = 0 := witness_drawing
theorem witness_RectBlendsOncePerBoundaryLine : Inv s4 ∧ s4.cfgValid = true := ⟨s4_inv, rfl⟩
theorem witness_FillWritesTheRectangle : Inv s4 ∧ s4.cfgValid = true ∧ indexReserved 0xFF#32 = 0 := witness_drawing
theorem witness_FillBlendsEachPixelOnce : Inv s4 ∧ s4.cfgValid = true := ⟨s4_inv, rfl⟩
theorem witness_ConvertFrameNeverRaises : Inv s4 ∧ s4.cfgValid = true := ⟨s4_inv, rfl⟩
theorem witness_UpscaleFrameNeverRaises : Inv s4 ∧ s4.cfgValid = true := ⟨s4_inv, rfl⟩

/-- The last entry and the last pair of entries of a line with a tie. -/
theorem witness_BresenhamPixelsWalkEndToEnd :
    1 + 1 < (bresenhamPixels 0 0 2 1).length ∧ 0 < max ((2 : Int) - 0).natAbs ((1 : Int) - 0).natAbs := by decide

/-- A line with steps > 0, its last entry and its last pair of entries. -/
theorem witness_ParamPixelsSampleTheLine :
    0 < max ((2 : Int) - 0).natAbs ((1 : Int) - 0).natAbs ∧ 2 < (paramPixels 0 0 2 1).length ∧
    1 + 1 < (paramPixels 0 0 2 1).length := by decide

/-- A raster primitive that draws, one with every pixel clipped, and the two clears. -/
theorem witness_RasterWritesOnlyItsTarget :
    Memory.wf s4.mem = true ∧
    (∃ t, exec (.pixel 3 3 9) s4 = .next t ∧ decide (t.mem ≠ s4.mem) = true) ∧
    (∃ t, exec (.pixelI (-1) 0 9) s4 = .next t ∧ rasterPixels (.pixelI (-1) 0 9) = some (.index, [(-1, 0)]) ∧
      ∀ p ∈ [((-1 : Int), (0 : Int))], onCanvas (canvas s4) p.1 p.2 = false) ∧
    (∃ t, exec (.clear 9) s4 = .next t) ∧ ∃ t, exec (.clearI 9) s4 = .next t := by
  refine ⟨rfl, of_nextIs (by decide +kernel), ?_, ?_, ?_⟩
  · obtain ⟨t, h, _⟩ := of_nextIs (r := exec (.pixelI (-1) 0 9) s4) (p := fun _ => true) (by decide +kernel)
    exact ⟨t, h, rfl, by decide⟩
  · obtain ⟨t, h, _⟩ := of_nextIs (r := exec (.clear 9) s4) (p := fun _ => true) (by decide +kernel)
    exact ⟨t, h⟩
  · obtain ⟨t, h, _⟩ := of_nextIs (r := exec (.clearI 9) s4) (p := fun _ => true) (by decide +kernel)
    exact ⟨t, h⟩

/-- No configuration; the smallest reserved bit of an index value, of op[10] and of op[11]. -/
theorem witness_DrawsCheckConfigThenOperands :
    (needsConfig (.light 0 0 0 0 0 0 0 0 0 0 0) = true ∧ State.reset.cfgValid = false) ∧
    (indexValue (.fillI 0 0 1 1 0x100) = some 0x100#32 ∧ s4.cfgValid = true ∧ indexReserved 0x100#32 ≠ 0) ∧
    (enableReserved 0x00020000#32 ≠ 0 ∨ ambientReserved 0#32 ≠ 0) ∧ ambientReserved 0x00010000#32 ≠ 0 := by decide

/-- An empty region anywhere; regions that touch, and end at the end of PMEM. -/
theorem witness_ConvertGathersThroughPalette :
    Inv s4 ∧ 0x1000 % 4 = 0 ∧
    (4 ≠ 0 ∧ 0x1010 + 4 ≤ s4.params.pmemSize ∧ 0x1000 + 4 * 4 ≤ s4.params.pmemSize ∧ 0x1000 + 4 * 4 ≤ 0x1010) ∧
    0x3FFFF0 + 4 * 4 ≤ s4.params.pmemSize := ⟨s4_inv, by decide, by decide, by decide⟩

/-- C-4; C-7, and a destination one word past the end; C-5. -/
theorem witness_ConvertErrorsInOrder :
    0x2001 % 4 ≠ 0 ∧
    (0 % 4 = 0 ∧ 0 < 2 ∧ s4.params.pmemSize < 0x3FFFFF + 2) ∧ (0x3FFFFC % 4 = 0 ∧ s4.params.pmemSize < 0x3FFFFC + 4 * 2) ∧
    (0x1000 % 4 = 0 ∧ 0x1003 + 4 ≤ s4.params.pmemSize ∧ 0x1000 + 4 * 4 ≤ s4.params.pmemSize ∧ 0x1003 < 0x1000 + 4 * 4 ∧
      0x1000 < 0x1003 + 4) := by decide

/-- U-2, and an empty image. -/
theorem witness_UpscaleReplicatesPixels :
    Inv s4 ∧ (0x200 % 4 = 0 ∧ 0x100 % 4 = 0) ∧
    (0x100 + 4 * 3 * 1 ≤ s4.params.pmemSize ∧ 0x200 + 4 * 3 * 1 * 2 * 2 ≤ s4.params.pmemSize ∧ 0x100 + 4 * 3 * 1 ≤ 0x200) ∧
    0 * 5 = 0 := ⟨s4_inv, by decide, by decide, rfl⟩

/-- U-3; a misaligned source; U-9; U-5. -/
theorem witness_UpscaleErrorsInOrder :
    ¬(3 = 1 ∨ 3 = 2 ∨ 3 = 4 ∨ 3 = 8) ∧ (0x200 % 4 ≠ 0 ∨ 0x101 % 4 ≠ 0) ∧
    (0 < 2 * 2 ∧ s4.params.pmemSize < 0x3FFFF0 + 4 * 2 * 2 * 2 * 2) ∧
    (0 < 1 * 1 ∧ 0x100 + 4 * 1 * 1 ≤ s4.params.pmemSize ∧ 0x100 < 0x100 + 4 * 1 * 1 * 1 * 1) := by decide

/-- W4: a 4 by 3 source at 0x100. -/
theorem witness_UpscaleIsRecursiveDoubling :
    Inv s4 ∧
    (0x100 + 4 * 4 * 3 ≤ s4.params.pmemSize ∧ 0x1000 + 16 * 4 * 3 ≤ s4.params.pmemSize ∧
      0x2000 + 64 * 4 * 3 ≤ s4.params.pmemSize ∧ 0x8000 + 256 * 4 * 3 ≤ s4.params.pmemSize ∧
      0x4000 + 64 * 4 * 3 ≤ s4.params.pmemSize ∧ 0x10000 + 256 * 4 * 3 ≤ s4.params.pmemSize) ∧
    (0x100 + 4 * 4 * 3 ≤ 0x1000 ∧ 0x1000 + 16 * 4 * 3 ≤ 0x2000 ∧ 0x2000 + 64 * 4 * 3 ≤ 0x8000 ∧
      0x100 + 4 * 4 * 3 ≤ 0x4000 ∧ 0x100 + 4 * 4 * 3 ≤ 0x10000) := ⟨s4_inv, by decide, by decide⟩

/-- A sprite that touches the framebuffer's end (B-5), and an empty one inside it. -/
theorem witness_BlitPlacesTheSprite :
    Inv s4 ∧ s4.cfgValid = true ∧ SpriteOk s4 0x80 1 1 ∧ SpriteOk s4 0x40 0 7 := by
  refine ⟨s4_inv, rfl, ?_, ?_⟩ <;> unfold SpriteOk <;> decide

theorem witness_LightShadesTheSprite :
    Inv s4 ∧ s4.cfgValid = true ∧ SpriteOk s4 0x1000 3 1 ∧ enableReserved 0x0001FFFF#32 = 0 ∧ ambientReserved 0xFFFF#32 = 0 := by
  refine ⟨s4_inv, rfl, ?_, by decide, by decide⟩
  unfold SpriteOk
  decide

/-- A disabled light; d² = r²; d² just below r²; a larger ambient and intensity. -/
theorem witness_ShadeIsExactAndMonotone :
    (255 ≤ 255 ∧ (0 : Int) ≤ 8) ∧ (lightParams 0 0 0 3 0x0000FFFF 0).enable = false ∧
    ((lightParams 0 0 0 3 0x00010100 0x80).enable = true ∧ ((3 : Int) * 3 ≤ 9 ∧ (8 : Int) < 3 * 3)) ∧
    ((lightParams 0 0 0 3 0x00010100 0x80).ambient ≤ 0x81 ∧ (lightParams 0 0 0 3 0x00010100 0x80).intensity ≤ 0x101) := by
  decide

/-- B-6; a sprite one word past the end; B-4. -/
theorem witness_SpriteErrorsInOrder :
    (s4.cfgValid = true ∧ enableReserved 0#32 = 0 ∧ ambientReserved 0#32 = 0) ∧ 0x1002 % 4 ≠ 0 ∧
    (0x3FFFFC % 4 = 0 ∧ 0 < 2 * 1 ∧ s4.params.pmemSize < 0x3FFFFC + 4 * 2 * 1) ∧
    (0x7C % 4 = 0 ∧ 0 < 1 * 1 ∧ 0x7C + 4 * 1 * 1 ≤ s4.params.pmemSize ∧ 0 < fbBytes s4 ∧
      0x7C < s4.cfgFbBase.toNat + fbBytes s4 ∧ s4.cfgFbBase.toNat < 0x7C + 4 * 1 * 1) := by decide

/-- I-1, whose three buffers touch or leave a gap. -/
theorem witness_InitConfiguresAndEmptiesPalette :
    s4.params.Legal ∧ (1 = 1 ∨ 1 = 2 ∨ 1 = 4 ∨ 1 = 8) ∧ s4.params.minDim ≤ 4 ∧ 4 % 4 = 0 ∧
    (0 % 4 = 0 ∧ 0x40 % 4 = 0 ∧ 0x80 % 4 = 0) ∧
    (0 + 4 * 4 ≤ s4.params.pmemSize ∧ 0x40 + 4 * 4 * 4 ≤ s4.params.pmemSize ∧ 0x80 + 4 * 4 * 4 * 1 * 1 ≤ s4.params.pmemSize) ∧
    (0 + 4 * 4 ≤ 0x40 ∧ 0 + 4 * 4 ≤ 0x80 ∧ 0x40 + 4 * 4 * 4 ≤ 0x80) :=
  ⟨reference_legal, by decide, by decide, by decide, by decide, by decide, by decide⟩

/-- I-2, I-4, I-6, I-7, I-8 and I-9, each passing the checks before its own. -/
theorem witness_InitFailureReportsFirstError :
    s4.params.Legal ∧ ¬(3 = 1 ∨ 3 = 2 ∨ 3 = 4 ∨ 3 = 8) ∧ ¬(s4.params.minDim ≤ 2) ∧
    (s4.params.minDim ≤ 6 ∧ 6 % 4 ≠ 0) ∧ 0x42 % 4 ≠ 0 ∧
    (0x3FFFC4 % 4 = 0 ∧ ¬(0x3FFFC4 + 4 * 4 * 4 * 1 * 1 ≤ s4.params.pmemSize)) ∧
    ¬(0x40 + 4 * 4 * 4 ≤ 0x60 ∨ 0x60 + 4 * 4 * 4 * 1 * 1 ≤ 0x40) :=
  ⟨reference_legal, by decide, by decide, by decide, by decide, by decide, by decide⟩

/-- A command that completes, one that raises, and an INIT that raises. -/
theorem witness_CommandsCompleteOrRaisePrecisely :
    (∃ t, exec (.signal 1) s4 = .next t) ∧ (∃ t, exec (.convert 1 0 0) s4 = .next t ∧ decide (t.halted = true) = true) ∧
    ∃ t, exec (.init 3 4 4 0 0x40 0x80) s4 = .next t ∧ decide (t.cfgValid = false) = true :=
  ⟨⟨_, rfl⟩, of_nextIs (by decide), of_nextIs (by decide)⟩

/-- For each register, palette and memory clause, a command that changes it. -/
theorem witness_OnlyNamedCommandsWriteState :
    (∃ t, exec (.palAdd 5) { s4 with result := 9 } = .next t ∧ decide (t.result ≠ 9) = true) ∧
    (∃ t, exec (.palFind 5) s4 = .next t ∧ decide (t.result ≠ s4.result) = true) ∧
    (∃ t, exec (.signal 5) s4 = .next t ∧ decide (t.signal ≠ s4.signal) = true) ∧
    (∃ t, exec (.palAdd 5) s4 = .next t ∧ decide (t.pal ≠ s4.pal) = true) ∧
    (∃ t, exec (.init 1 8 8 0 0x40 0x200) s4 = .next t ∧ decide (t.cfgWidth ≠ s4.cfgWidth) = true) ∧
    (∃ t, exec (.pixel 0 0 9) s4 = .next t ∧ decide (t.mem ≠ s4.mem) = true) ∧
    (∃ t, exec (.convert 0x2000 0 1) pal2 = .next t ∧ decide (t.mem ≠ pal2.mem) = true) ∧
    ∃ t, exec (.upscale 0x200 0x40 1 1 1) k4 = .next t ∧ decide (t.mem ≠ k4.mem) = true :=
  ⟨of_nextIs (by decide), of_nextIs (by decide), of_nextIs (by decide), of_nextIs (by decide), of_nextIs (by decide),
    of_nextIs (by decide +kernel), of_nextIs (by decide +kernel), of_nextIs (by decide +kernel)⟩

theorem witness_OneCommandSetsAtMostOneEvent :
    (∃ t, exec (.signalIrq 5) s4 = .next t ∧ decide (t.irqStatus = 0b001#3) = true) ∧
    ∃ t, exec (.convert 1 0 0) s4 = .next t ∧ decide (t.irqStatus = 0b010#3) = true :=
  ⟨of_nextIs (by decide), of_nextIs (by decide)⟩

theorem witness_PaletteNeverShrinksInSession :
    (∃ t, exec (.palAdd 5) { s4 with pal := [4] } = .next t ∧ decide (t.pal = [4, 5]) = true) ∧
    ∃ t, exec (.init 1 4 4 0 0x40 0x80) { s4 with pal := [4] } = .next t ∧ decide (t.pal = []) = true :=
  ⟨of_nextIs (by decide), of_nextIs (by decide)⟩

theorem witness_ResetLeavesTheTable :
    (∃ s : State, s.port = .resetInput :: [] ∧ s.cmdCount ≠ 0) ∧
    ∃ s : State, s.port = .access (.regWrite 0x004#32 .word 1#32) :: [] ∧ (1#32).getLsbD 0 = true ∧ s.cmdCount ≠ 0 :=
  ⟨⟨{ k4 with port := [.resetInput], cmdCount := 3 }, rfl, by decide⟩, ⟨hostWrite 0x004 1 { k4 with cmdCount := 3 }, rfl, rfl, by decide⟩⟩

/-- The largest parameters, and a memory that lists the last byte. -/
theorem witness_PowerOnMeetsInvariant :
    Params.Legal { pmemSize := 2 ^ 31, fifoDepth := 255, minDim := 100 } ∧ Memory.wf [(0, 1#8), (2 ^ 31 - 1, 0xFF#8)] = true ∧
    ∀ c ∈ [(0, 1#8), (2 ^ 31 - 1, 0xFF#8)], c.1 < 2 ^ 31 := by
  refine ⟨?_, by decide, by decide⟩
  constructor <;> decide

/-- A step of the engine that draws. -/
theorem witness_EveryStepKeepsInvariant :
    Inv { s4 with fifo := [0x11, 3, 3, 9] } ∧
    ∃ t, step { s4 with fifo := [0x11, 3, 3, 9] } = .next t ∧ decide (t.mem ≠ s4.mem) = true :=
  ⟨s4_inv.setFifo (words := [0x11, 3, 3, 9]) (by decide), of_nextIs (by decide +kernel)⟩

theorem witness_NoStopFromInvariant : Inv s4 ∧ Inv State.reset ∧ Inv fullFifo := ⟨s4_inv, reset_inv, fullFifo_inv⟩

end Sys2Proof.Tests
end

namespace Sys2Proof

/-! ## The engine executes the command whose packet heads the FIFO (rules R10, R81) -/

/-! ### Headers and operands of a packet, decoded -/

open Laws.LegalHeader in
/-- The header of every command is legal and its packet has one word more than it has operands (rules R80, R82, R86). -/
theorem legalHeader (i : Instr) : Laws.LegalHeader.Statement i := by
  cases i with
  | nop => exact nop
  | init => exact init ..
  | signal => exact signal _
  | signalIrq => exact signalIrq _
  | palAdd => exact palAdd _
  | palFind => exact palFind _
  | clear => exact clear _
  | clearI => exact clearI _
  | pixel => exact pixel ..
  | pixelB => exact pixelB ..
  | pixelI => exact pixelI ..
  | line => exact line ..
  | lineB => exact lineB ..
  | lineI => exact lineI ..
  | linep => exact linep ..
  | linepB => exact linepB ..
  | linepI => exact linepI ..
  | rect => exact rect ..
  | rectB => exact rectB ..
  | rectI => exact rectI ..
  | fill => exact fill ..
  | fillB => exact fillB ..
  | fillI => exact fillI ..
  | convert => exact convert ..
  | upscale => exact upscale ..
  | blit => exact blit ..
  | blitB => exact blitB ..
  | light => exact light ..
  | lightB => exact lightB ..

@[simp] theorem headerOpcode_headerValue {opcode mode : Nat} (ho : opcode < 256) :
    (headerOpcode (headerValue opcode mode)).toNat = opcode := by
  simp only [headerOpcode, headerValue, BitVec.extractLsb'_toNat, BitVec.toNat_ofNat, Nat.shiftRight_eq_div_pow]
  omega

@[simp] theorem headerMode_headerValue {opcode mode : Nat} (ho : opcode < 256) (hm : mode < 4) :
    (headerMode (headerValue opcode mode)).toNat = mode := by
  simp only [headerMode, headerValue, BitVec.extractLsb'_toNat, BitVec.toNat_ofNat, Nat.shiftRight_eq_div_pow]
  omega

/-- A legal header is decoded by the opcode map of rule R86. -/
theorem decodePacket_of_legal {h : Word} {n : Nat} (hr : headerReserved h = 0)
    (hl : opcodeLength (headerOpcode h) = some n) (ops : List Word) :
    decodePacket h ops = decodeMode (headerOpcode h).toNat (headerMode h).toNat ops := by
  simp [decodePacket, hl, hr]

/-- The opcode map reads every operand back: signed and unsigned ones because the command is well formed (rule R84). -/
theorem decodeMode_headerWord (i : Instr) (hw : i.wellFormed = true) :
    decodeMode (headerOpcode (headerWord i)).toNat (headerMode (headerWord i)).toNat (operandWords i) = .instr i := by
  -- one argument for every command: its arm of the map is taken, and each operand word gives its operand back
  revert hw
  cases i <;>
    simp +contextual [Instr.wellFormed, decodeMode, headerWord, operandWords, signedAt, unsignedAt, operandWord,
      signedOperand_signedWord, unsignedOperand_unsignedWord]

/-- A packet is as long as its header says (rule R80). -/
theorem packetLength_headerWord (i : Instr) : packetLength (headerWord i) = (operandWords i).length + 1 := by
  simp [packetLength, (legalHeader i).2]

/-- Decoding the packet of a well-formed command gives the command back (rules R84, R86, R92). -/
theorem decodePacket_headerWord {i : Instr} (hw : i.wellFormed = true) :
    decodePacket (headerWord i) (operandWords i) = .instr i := by
  obtain ⟨hr, hl⟩ := legalHeader i
  rw [decodePacket_of_legal hr hl, decodeMode_headerWord i hw]

namespace Machine

/-! ### The engine's step on a packet -/

/-- A packet at the head of the FIFO of an engine that is not halted raises BUSY (rules R24, R81). -/
theorem busy_encode {s : State} {i : Instr} {rest : List Word} (hh : s.halted = false)
    (hf : s.fifo = encode i ++ rest) : busy s = true := by
  simp [busy, hh, hf, encode, packetReady, packetLength_headerWord]

/-- The engine's step removes the packet of a well-formed command and executes it (rules R10, R81). -/
theorem engineStep_encode {s : State} {i : Instr} {rest : List Word} (hw : i.wellFormed = true)
    (hh : s.halted = false) (hf : s.fifo = encode i ++ rest) : engineStep s = exec i (setFifo s rest) := by
  have hd : decodePacket (headerWord i) ((operandWords i ++ rest).take (packetLength (headerWord i) - 1)) =
      .instr i := by
    simpa [packetLength_headerWord] using decodePacket_headerWord hw
  rw [engineStep_instr hh hf (by simp [packetLength_headerWord]) hd]
  simp [packetLength_headerWord]

/-- Settles O10: in each of the three ways the engine is next, its step is the one of `engineStep_encode`. -/
theorem stepRunsDecodedInstruction : Obligations.StepRunsDecodedInstruction := by
  intro s i rest a ev hw hh hf
  refine ⟨fun hp => ?_, fun hp => ?_, fun hp ha => ?_⟩
  · exact (agentStep_nil hp).trans (engineStep_encode hw hh hf)
  · exact (agentStep_engineTurn hp).trans (engineStep_encode (s := setPort s ev) hw hh hf)
  · exact (agentStep_held hp ha (busy_encode hh hf)).trans (engineStep_encode hw hh hf)

end Machine
end Sys2Proof

namespace Sys2Proof.Machine

/-! ## The invariant at power-on (rules R6, R77, R230) -/

/-- Power-on with legal parameters and any canonical memory inside PMEM. -/
theorem powerOn_inv {p : Params} {m : Memory} (hp : p.Legal) (hw : Memory.wf m = true)
    (hi : ∀ c ∈ m, c.1 < p.pmemSize) : Inv (State.powerOn p m) where
  params := hp
  mem := ⟨hw, hi⟩
  fifo := Nat.zero_le _
  halted_iff := by simp
  code := by simp
  pal_size := Nat.zero_le _
  pal_nodup := List.nodup_nil
  config := fun hv => nomatch hv

theorem legal_reference : Config.reference.Legal := by constructor <;> decide

/-- Settles O54: `State.reset` is the power-on of the reference parameters. -/
theorem powerOnMeetsInvariant : Obligations.PowerOnMeetsInvariant :=
  ⟨fun _ _ => powerOn_inv, powerOn_inv legal_reference reset_mem_wf fun _ hc => nomatch hc⟩

/-! ## What every answer of a command keeps -/

/-- The next state of an answer, if it gives one, meets the invariant. -/
def NextInv (r : Result) : Prop := ∀ t, r = .next t → Inv t

theorem nextInv_next {s : State} : NextInv (.next s) ↔ Inv s :=
  ⟨fun h => h s rfl, fun h t ht => by cases ht; exact h⟩

theorem nextInv_fault (r : Fault) : NextInv (.fault r) := fun _ ht => nomatch ht

/-- A command that raises keeps the invariant, and one that completes does if its writes do. -/
theorem nextInv_finishCommand {hd : Word} {err : Option CommandError} {effect : State → State} {s : State}
    (h : Inv s) (heff : err = none → Inv (effect s)) : NextInv (finishCommand hd err effect s) := by
  intro t ht
  obtain ⟨e, -, rfl⟩ | ⟨herr, rfl⟩ := finishCommand_next ht
  · exact h.raiseError e hd
  · exact (heff herr).countCommand

/-! ### Writes of pixel memory -/

/-- A byte is in the region `[b, b + n)`, or the memory lists it. -/
abbrev InRegionOr (b n : Nat) (m : Memory) (c : Host.Cell) : Prop := (b ≤ c.1 ∧ c.1 < b + n) ∨ c ∈ m

/-- A canonical memory that lists, beside what was listed, bytes of a region inside PMEM alone can take pixel memory's
place (rules R60, R62). -/
theorem Inv.setMem_region {s : State} (h : Inv s) {m : Memory} {b n : Nat}
    (hin : regionInside s.params.pmemSize b n = true) (hw : Memory.wf m = true)
    (hm : ∀ c ∈ m, InRegionOr b n s.mem c) : Inv (Machine.setMem s m) := by
  refine h.setMem hw fun c hc => ?_
  rcases hm c hc with hr | hl
  · have := regionInside_iff.1 hin
    omega
  · exact h.mem.inside c hl

/-- A loop of drawing keeps pixel memory canonical and lists only bytes of the mode's target buffer. -/
structure DrawsInTarget (mode : DrawMode) (draw : Canvas → Memory → Memory) : Prop where
  wf : ∀ {cv m}, Memory.wf m = true → Memory.wf (draw cv m) = true
  listed : ∀ {cv m}, ∀ c ∈ draw cv m, InRegionOr (targetRegion mode cv).1 (targetRegion mode cv).2 m c

theorem drawsInTarget_clearMem (mode : DrawMode) (v : Word) : DrawsInTarget mode (clearMem mode v) :=
  ⟨clearMem_wf, fun _ => mem_clearMem⟩

theorem drawsInTarget_plotAll (mode : DrawMode) (v : Word) (pixels : List (Int × Int)) :
    DrawsInTarget mode fun cv m => plotAll mode cv v pixels m :=
  ⟨plotAll_wf pixels, fun _ => mem_plotAll pixels⟩

theorem drawsInTarget_drawSprite (mode : DrawMode) (x y : Int) (sb sw sh : Nat)
    (shade : Int → Int → Word → Option Word) : DrawsInTarget mode (drawSprite mode x y sb sw sh shade) :=
  ⟨drawSprite_wf, fun _ => mem_drawSprite⟩

/-- A drawing command keeps the invariant: it draws only when its target is inside PMEM. -/
theorem nextInv_drawCommand {mode : DrawMode} {draw : Canvas → Memory → Memory} {s : State} (h : Inv s)
    (hd : DrawsInTarget mode draw) (hdr : Word) (err : Option CommandError) :
    NextInv (drawCommand hdr err mode draw s) := by
  obtain ⟨e, -, he⟩ | ⟨-, hin, he⟩ | ⟨-, -, he⟩ := drawCommand_cases hdr err mode draw s <;> rw [he]
  · exact nextInv_next.2 (h.raiseError e hdr)
  · exact nextInv_next.2 (h.setMem_region hin (hd.wf h.mem.canonical) hd.listed).countCommand
  · exact nextInv_fault _

theorem nextInv_plotCommand {s : State} (h : Inv s) (i : Instr) (mode : DrawMode) (pixels : List (Int × Int))
    (v : Word) : NextInv (plotCommand i mode pixels v s) :=
  nextInv_drawCommand h (drawsInTarget_plotAll mode v pixels) _ _

/-! ### CONVERT and UPSCALE (rules R140, R150) -/

theorem mem_convertMem {pal : List Word} {dst src n : Nat} {m : Memory} {c : Host.Cell}
    (hc : c ∈ convertMem pal dst src n m) : InRegionOr dst (4 * n) m c := by
  obtain ⟨i, hi, _, _⟩ | hm := mem_foldl_writeWord (fun i => dst + 4 * i)
    (fun m i => palEntry pal (readByte m (src + i)).toNat) _ hc
  · have := List.mem_range.1 hi
    exact .inl (by omega)
  · exact .inr hm

theorem mem_upscaleMem {dst src w h f : Nat} {m : Memory} {c : Host.Cell}
    (hc : c ∈ upscaleMem dst src w h f m) : InRegionOr dst (4 * w * h * f * f) m c := by
  rw [upscaled_bytes]
  obtain ⟨⟨col, row⟩, hp, hlo, hhi⟩ | hm := mem_foldl_writeWord
    (fun p : Nat × Nat => wordGridAddr dst (w * f) p.1 p.2)
    (fun m p => readWord m (wordGridAddr src w (p.1 / f) (p.2 / f))) _ hc
  · obtain ⟨hcol, hrow⟩ := mem_grid.1 hp
    have := wordGridAddr_inside (b := dst) hcol hrow
    dsimp only at hlo hhi
    exact .inl (by omega)
  · exact .inr hm

theorem nextInv_execConvert {s : State} (h : Inv s) (dst src n : Nat) : NextInv (execConvert dst src n s) := by
  refine nextInv_finishCommand h fun herr => ?_
  obtain ⟨-, hin, -⟩ := convertError_none.1 herr
  exact h.setMem_region (regionInside_iff.2 (by omega)) (convertMem_wf h.mem.canonical) fun _ => mem_convertMem

theorem nextInv_execUpscale {s : State} (h : Inv s) (dst src w ht f : Nat) :
    NextInv (execUpscale dst src w ht f s) := by
  refine nextInv_finishCommand h fun herr => ?_
  obtain ⟨-, -, -, -, hin, -⟩ := upscaleError_none.1 herr
  exact h.setMem_region hin (upscaleMem_wf h.mem.canonical) fun _ => mem_upscaleMem

/-! ### The palette (rules R40, R41, R101, R102) -/

theorem Inv.setResult {s : State} (h : Inv s) (v : Word) : Inv { s with result := v } :=
  h.congr rfl rfl rfl rfl rfl rfl rfl rfl rfl rfl rfl rfl rfl

theorem Inv.setSignal {s : State} (h : Inv s) (v : Word) : Inv (setSignal v s) :=
  h.congr rfl rfl rfl rfl rfl rfl rfl rfl rfl rfl rfl rfl rfl

/-- A palette of at most 256 distinct colours can take the palette's place. -/
theorem Inv.setPal {s : State} (h : Inv s) {pal : List Word} (hl : pal.length ≤ 256) (hn : pal.Nodup) :
    Inv { s with pal := pal } where
  params := h.params
  mem := ⟨h.mem.canonical, h.mem.inside⟩
  fifo := h.fifo
  halted_iff := h.halted_iff
  code := h.code
  pal_size := hl
  pal_nodup := hn
  config := fun hv => (h.config hv).congr rfl rfl rfl rfl rfl rfl rfl

/-- PAL_ADD appends only a colour that is no entry yet, and only to a palette with room. -/
theorem Inv.palAddEffect {s : State} (h : Inv s) (c : Word) : Inv (palAddEffect c s) := by
  obtain ⟨j, _, _, _, he⟩ | ⟨hc, hl, he⟩ | ⟨_, _, he⟩ := palAddEffect_cases c s <;> rw [he]
  · exact h.setResult _
  · have hn : (s.pal ++ [c]).Nodup := List.nodup_append_comm.1 (List.nodup_cons.2 ⟨hc, h.pal_nodup⟩)
    exact (h.setPal (by simpa using hl) hn).setResult _
  · exact h.setResult _

theorem Inv.palFindEffect {s : State} (h : Inv s) (c : Word) : Inv (palFindEffect c s) := by
  obtain ⟨j, _, _, _, he⟩ | ⟨_, he⟩ := palFindEffect_cases c s <;> rw [he] <;> exact h.setResult _

/-! ### INIT (rules R50, R182) -/

/-- An accepted configuration has buffers of at least one byte. -/
theorem initError_none_pos {f w h bi bf bo : Nat} {s : State} (hp : s.params.Legal)
    (herr : initError f w h bi bf bo s = none) : 0 < f ∧ 0 < w ∧ 0 < h := by
  obtain ⟨hf, hmin, -⟩ := initError_none.1 herr
  have := legalFactor_iff.1 hf
  have := hp.minDim_low
  omega

/-- The buffers of an accepted configuration, which are not empty, lie inside PMEM. -/
theorem initError_none_inside {f w h bi bf bo : Nat} {s : State} (hp : s.params.Legal)
    (herr : initError f w h bi bf bo s = none) :
    bi + w * h ≤ s.params.pmemSize ∧ bf + 4 * w * h ≤ s.params.pmemSize ∧
      bo + 4 * w * h * f * f ≤ s.params.pmemSize := by
  obtain ⟨hf, hw, hh⟩ := initError_none_pos hp herr
  obtain ⟨-, -, -, -, ⟨hi, hb, ho⟩, -⟩ := initError_none.1 herr
  rw [regionInside_iff] at hi hb ho
  exact ⟨hi.resolve_left (by positivity), hb.resolve_left (by positivity), ho.resolve_left (by positivity)⟩

/-- Every operand of an accepted INIT is a 32-bit number: the registers hold it whole. -/
theorem initError_none_lt {f w h bi bf bo : Nat} {s : State} (hp : s.params.Legal)
    (herr : initError f w h bi bf bo s = none) :
    f < 2 ^ 32 ∧ w < 2 ^ 32 ∧ h < 2 ^ 32 ∧ bi < 2 ^ 32 ∧ bf < 2 ^ 32 ∧ bo < 2 ^ 32 := by
  obtain ⟨-, hw, hh⟩ := initError_none_pos hp herr
  obtain ⟨hi, hb, ho⟩ := initError_none_inside hp herr
  have hf := legalFactor_iff.1 (initError_none.1 herr).1
  have hwa : w ≤ w * h := Nat.le_mul_of_pos_right w hh
  have hha : h ≤ w * h := Nat.le_mul_of_pos_left h hw
  have := hp.pmemSize_high
  omega

/-- A configuration whose registers INIT would accept is a legal one. -/
theorem configOk_of_initError {s : State} (hp : s.params.Legal)
    (herr : initError s.cfgFactor.toNat s.cfgWidth.toNat s.cfgHeight.toNat s.cfgIdxBase.toNat s.cfgFbBase.toNat
      s.cfgOutBase.toNat s = none) : ConfigOk s := by
  obtain ⟨hi, hb, ho⟩ := initError_none_inside hp herr
  obtain ⟨hf, ⟨hw, hh⟩, ⟨hw4, hh4⟩, ⟨hai, hab, hao⟩, -, hov⟩ := initError_none.1 herr
  have efb : 4 * s.cfgWidth.toNat * s.cfgHeight.toNat = fbBytes s := Nat.mul_assoc ..
  have eout : fbBytes s * s.cfgFactor.toNat * s.cfgFactor.toNat = outBytes s := by
    simp only [fbBytes, outBytes]
    ring
  simp only [buffersOverlap, Bool.or_eq_false_iff] at hov
  rw [efb] at hb ho hov
  rw [eout] at ho hov
  exact
    { factor := legalFactor_iff.1 hf
      width_min := hw
      height_min := hh
      width_mul4 := hw4
      height_mul4 := hh4
      idx_aligned := wordAligned_iff.1 hai
      fb_aligned := wordAligned_iff.1 hab
      out_aligned := wordAligned_iff.1 hao
      idx_inside := hi
      fb_inside := hb
      out_inside := ho
      idx_fb := hov.1.1
      idx_out := hov.1.2
      fb_out := hov.2 }

/-- What INIT writes after its checks is a legal configuration. -/
theorem configOk_configure {f w h bi bf bo : Nat} {s : State} (hp : s.params.Legal)
    (herr : initError f w h bi bf bo s = none) : ConfigOk (configure f w h bi bf bo s) := by
  obtain ⟨hf, hw, hh, hi, hb, ho⟩ := initError_none_lt hp herr
  refine configOk_of_initError hp ?_
  simp only [configure_cfgFactor, configure_cfgWidth, configure_cfgHeight, configure_cfgIdxBase,
    configure_cfgFbBase, configure_cfgOutBase, BitVec.toNat_ofNat, Nat.mod_eq_of_lt, hf, hw, hh, hi, hb, ho]
  exact herr

theorem Inv.configure {s : State} (h : Inv s) {f w ht bi bf bo : Nat}
    (herr : initError f w ht bi bf bo s = none) : Inv (configure f w ht bi bf bo s) where
  params := h.params
  mem := ⟨h.mem.canonical, h.mem.inside⟩
  fifo := h.fifo
  halted_iff := h.halted_iff
  code := h.code
  pal_size := Nat.zero_le _
  pal_nodup := List.nodup_nil
  config := fun _ => configOk_configure h.params herr

theorem Inv.invalidateConfig {s : State} (h : Inv s) : Inv (invalidateConfig s) where
  params := h.params
  mem := ⟨h.mem.canonical, h.mem.inside⟩
  fifo := h.fifo
  halted_iff := h.halted_iff
  code := h.code
  pal_size := h.pal_size
  pal_nodup := h.pal_nodup
  config := fun hv => nomatch hv

theorem nextInv_execInit {s : State} (h : Inv s) (f w ht bi bf bo : Nat) :
    NextInv (execInit f w ht bi bf bo s) := by
  by_cases herr : initError f w ht bi bf bo s = none
  · simp only [execInit, if_pos herr]
    exact nextInv_finishCommand h h.configure
  · simp only [execInit, if_neg herr]
    exact nextInv_finishCommand h.invalidateConfig fun he => absurd he herr

/-! ### Every command -/

/-- Every command keeps the invariant, whatever its operands. -/
theorem nextInv_exec {s : State} (h : Inv s) (i : Instr) : NextInv (exec i s) := by
  cases i with
  | nop => exact (nextInv_finishCommand h fun _ => h : NextInv (execNop s))
  | init f w ht bi bf bo => exact nextInv_execInit h f w ht bi bf bo
  | signal v => exact (nextInv_finishCommand h fun _ => h.setSignal v : NextInv (execSignal v s))
  | signalIrq v =>
      exact (nextInv_finishCommand h fun _ => (h.setSignal v).setIrq irqSigBit : NextInv (execSignalIrq v s))
  | palAdd c => exact (nextInv_finishCommand h fun _ => h.palAddEffect c : NextInv (execPalAdd c s))
  | palFind c => exact (nextInv_finishCommand h fun _ => h.palFindEffect c : NextInv (execPalFind c s))
  | clear v | clearI v => exact nextInv_drawCommand h (drawsInTarget_clearMem _ v) _ _
  | pixel | pixelB | pixelI | line | lineB | lineI | linep | linepB | linepI | rect | rectB | rectI
  | fill | fillB | fillI => exact nextInv_plotCommand h _ _ _ _
  | convert dst src n => exact nextInv_execConvert h dst src n
  | upscale dst src w ht f => exact nextInv_execUpscale h dst src w ht f
  | blit | blitB | light | lightB => exact nextInv_drawCommand h (drawsInTarget_drawSprite ..) _ _

/-! ## The engine and the ports -/

/-- Everything the engine's step can do: wait, execute the command at the head of the FIFO, or raise the error of its
header; the packet is removed first (rules R81, R87 to R89). -/
theorem engineStep_cases (s : State) :
    engineStep s = .next s ∨
      ∃ h rest, s.halted = false ∧ s.fifo = h :: rest ∧ packetLength h ≤ rest.length + 1 ∧
        ((∃ i, decodePacket h (rest.take (packetLength h - 1)) = .instr i ∧
            engineStep s = exec i (setFifo s (s.fifo.drop (packetLength h)))) ∨
          ∃ e, decodePacket h (rest.take (packetLength h - 1)) = .error e ∧
            engineStep s = .next (raiseError e h (setFifo s (s.fifo.drop (packetLength h))))) := by
  cases hb : busy s with
  | false => exact .inl (engineStep_idle hb)
  | true =>
      cases hf : s.fifo with
      | nil => simp [busy, hf, packetReady] at hb
      | cons h rest =>
          simp only [busy, hf, packetReady, List.length_cons, Bool.and_eq_true, Bool.not_eq_true',
            decide_eq_true_eq] at hb
          obtain ⟨hh, hl⟩ := hb
          refine .inr ⟨h, rest, hh, rfl, hl, ?_⟩
          cases hd : decodePacket h (rest.take (packetLength h - 1)) with
          | instr i => exact .inl ⟨i, rfl, engineStep_instr hh hf hl hd⟩
          | error e => exact .inr ⟨e, rfl, engineStep_error hh hf hl hd⟩

/-- Everything a step of the block can do: the engine's step, the reset input, or an accepted access (rules R11, R70). -/
theorem step_cases (s : State) :
    (∃ ev, EngineIsNext s ev ∧ step s = engineStep (setPort s ev)) ∨
    (∃ ev, s.port = .resetInput :: ev ∧ step s = .next (resetBlock (setPort s ev))) ∨
    ∃ a ev, s.port = .access a :: ev ∧ (isMemAccess a = false ∨ busy s = false) ∧
      step s = .next (hostAccess a (setPort s ev)) := by
  have engine : ∀ {ev}, EngineIsNext s ev → ∃ ev, EngineIsNext s ev ∧ step s = engineStep (setPort s ev) :=
    fun h => ⟨_, h, agentStep_engine h⟩
  match hp : s.port with
  | [] => exact .inl (engine (.inl ⟨hp, rfl⟩))
  | .engineTurn :: ev => exact .inl (engine (.inr (.inl hp)))
  | .resetInput :: ev => exact .inr (.inl ⟨ev, rfl, agentStep_resetInput hp⟩)
  | .access a :: ev =>
      by_cases hok : isMemAccess a = false ∨ busy s = false
      · exact .inr (.inr ⟨a, ev, rfl, hok, agentStep_access hp hok⟩)
      · obtain ⟨ha, hb⟩ : isMemAccess a = true ∧ busy s = true := by simpa using hok
        exact .inl (engine (.inr (.inr ⟨a, ev, hp, ha, hb, rfl⟩)))

theorem nextInv_engineStep {s : State} (h : Inv s) : NextInv (engineStep s) := by
  have hdrop (n : Nat) : Inv (setFifo s (s.fifo.drop n)) :=
    h.setFifo ((List.drop_sublist _ _).length_le.trans h.fifo)
  obtain he | ⟨hd, rest, -, -, -, ⟨i, -, he⟩ | ⟨e, -, he⟩⟩ := engineStep_cases s <;> rw [he]
  · exact nextInv_next.2 h
  · exact nextInv_exec (hdrop _) i
  · exact nextInv_next.2 ((hdrop _).raiseError e hd)

/-! ### The register port (rules R22, R23, R27 to R29) -/

theorem Inv.flushFifo {s : State} (h : Inv s) : Inv (flushFifo s) := h.setFifo (Nat.zero_le _)

theorem Inv.writeCtrl {s : State} (h : Inv s) (v : Word) : Inv (writeCtrl v s) := by
  have hflush : Inv (if v.getLsbD 2 then Machine.flushFifo s else s) := by
    split
    · exact h.flushFifo
    · exact h
  unfold Machine.writeCtrl
  split
  · exact h.resetBlock
  · dsimp only
    split
    · exact hflush.resumeEngine
    · exact hflush

theorem Inv.writeIrqStatus {s : State} (h : Inv s) (v : Word) : Inv (writeIrqStatus v s) :=
  h.congr rfl rfl rfl rfl rfl rfl rfl rfl rfl rfl rfl rfl rfl

theorem Inv.writeIrqEnable {s : State} (h : Inv s) (v : Word) : Inv (writeIrqEnable v s) :=
  h.congr rfl rfl rfl rfl rfl rfl rfl rfl rfl rfl rfl rfl rfl

theorem Inv.pushFifo {s : State} (h : Inv s) (v : Word) : Inv (pushFifo v s) := by
  unfold Machine.pushFifo
  split
  · exact h.setFifo (by simpa)
  · exact h.setIrq _

theorem Inv.writeRegister {s : State} (h : Inv s) (off : Nat) (v : Word) : Inv (writeRegister off v s) := by
  unfold Machine.writeRegister
  split
  · exact h.writeCtrl v
  · exact h.writeIrqStatus v
  · exact h.writeIrqEnable v
  · exact h.pushFifo v
  · exact h

theorem Inv.registerWrite {s : State} (h : Inv s) (off : Word) (size : AccessSize) (v : Word) :
    Inv (registerWrite off size v s) := by
  unfold Machine.registerWrite
  split
  · exact h.writeRegister _ v
  · exact h

/-! ### The memory port (rules R64, R69) -/

/-- An accepted access is inside PMEM. -/
theorem regionInside_of_memAccessOk {addr n : Nat} {s : State} (hok : memAccessOk addr n s = true) :
    regionInside s.params.pmemSize addr n = true := by
  simp only [memAccessOk, Bool.and_eq_true, decide_eq_true_eq] at hok
  exact regionInside_iff.2 (.inr hok.2)

theorem Inv.setMem_writeByte {s : State} (h : Inv s) {a : Nat} (hok : memAccessOk a 1 s = true) (v : Byte) :
    Inv (Machine.setMem s (writeByte s.mem a v)) :=
  h.setMem_region (regionInside_of_memAccessOk hok) (writeByte_wf _ _ h.mem.canonical) fun _ hc =>
    (mem_writeByte hc).imp_left fun he => by omega

theorem Inv.setMem_writeWord {s : State} (h : Inv s) {a : Nat} (hok : memAccessOk a 4 s = true) (v : Word) :
    Inv (Machine.setMem s (writeWord s.mem a v)) :=
  h.setMem_region (regionInside_of_memAccessOk hok) (writeWord_wf _ _ h.mem.canonical) fun _ => mem_writeWord

theorem Inv.hostAccess {s : State} (h : Inv s) (a : HostAccess) : Inv (hostAccess a s) := by
  unfold Machine.hostAccess
  cases a with
  | regRead off size => exact h.respond _ _
  | regWrite off size v => exact (h.registerWrite off size v).respond _ _
  | memReadByte addr | memReadWord addr => dsimp only; split <;> exact h.respond _ _
  | memWriteByte addr v =>
      dsimp only
      split
      · exact (h.setMem_writeByte ‹_› v).respond _ _
      · exact h.respond _ _
  | memWriteWord addr v =>
      dsimp only
      split
      · exact (h.setMem_writeWord ‹_› v).respond _ _
      · exact h.respond _ _

/-! ### The step -/

/-- Settles O55, agent by agent. -/
theorem everyStepKeepsInvariant : Obligations.EveryStepKeepsInvariant := by
  intro s t h ht
  obtain ⟨ev, -, he⟩ | ⟨ev, -, he⟩ | ⟨a, ev, -, -, he⟩ := step_cases s <;> rw [he] at ht
  · exact nextInv_engineStep (h.setPort ev) t ht
  · exact nextInv_next.2 (h.setPort ev).resetBlock t ht
  · exact nextInv_next.2 ((h.setPort ev).hostAccess a) t ht

end Sys2Proof.Machine

namespace Sys2Proof.Machine

/-! ## Accesses of the register port (rules R22 to R33) -/

/-! ### A step at a register access -/

/-- A step at a register read answers with what the register reads (rules R22, R33). -/
theorem step_regRead {s : State} {off : Word} {size : AccessSize} {ev : List PortEvent}
    (h : s.port = .access (.regRead off size) :: ev) :
    step s = .next { s with port := ev, portResponse := some ⟨registerRead off size s, false⟩ } :=
  agentStep_access h (.inl rfl)

/-- A step at a register write makes the write over the script that is left and answers it (rules R29, R33). -/
theorem step_regWrite {s : State} {off : Word} {size : AccessSize} {v : Word} {ev : List PortEvent}
    (h : s.port = .access (.regWrite off size v) :: ev) :
    step s = .next (respond 0#32 (registerWriteFails off size s) (registerWrite off size v (setPort s ev))) :=
  agentStep_access h (.inl rfl)

theorem step_writeCtrl {s : State} {v : Word} {ev : List PortEvent}
    (h : s.port = .access (.regWrite 0x004#32 .word v) :: ev) :
    step s = .next (respond 0#32 false (writeCtrl v (setPort s ev))) := step_regWrite h

theorem step_writeIrqStatus {s : State} {v : Word} {ev : List PortEvent}
    (h : s.port = .access (.regWrite 0x014#32 .word v) :: ev) :
    step s = .next (respond 0#32 false (writeIrqStatus v (setPort s ev))) := step_regWrite h

theorem step_writeIrqEnable {s : State} {v : Word} {ev : List PortEvent}
    (h : s.port = .access (.regWrite 0x018#32 .word v) :: ev) :
    step s = .next (respond 0#32 false (writeIrqEnable v (setPort s ev))) := step_regWrite h

/-- A write of CMD_FIFO answers with a bus error exactly when the FIFO is full. -/
theorem step_pushFifo {s : State} {v : Word} {ev : List PortEvent}
    (h : s.port = .access (.regWrite 0x01C#32 .word v) :: ev) :
    step s = .next (respond 0#32 (!decide (s.fifo.length < s.params.fifoDepth)) (pushFifo v (setPort s ev))) :=
  step_regWrite h

/-! ### What a register reads -/

/-- Named low bits read back. -/
theorem extractLsb'_lowBits {n : Nat} (hn : n ≤ 32) (v : BitVec n) : (lowBits v).extractLsb' 0 n = v := by
  ext k hk
  have hk32 : k < 32 := by omega
  simp [lowBits, hk, hk32]

/-- Bits above the named ones read 0. -/
theorem extractLsb'_lowBits_above {n len : Nat} (v : BitVec n) : (lowBits v).extractLsb' n len = 0 := by
  ext k hk
  simp [lowBits]

/-- An entry at or beyond PAL_SIZE reads 0 (rule R40). -/
theorem palEntry_eq (pal : List Word) (i : Nat) : palEntry pal i = if h : i < pal.length then pal[i] else 0 := by
  by_cases h : i < pal.length <;> simp [palEntry, h]

/-- The palette window through the port. -/
theorem registerRead_palette {i : Nat} (s : State) (hi : i < 256) :
    registerRead (BitVec.ofNat 32 (0x400 + 4 * i)) .word s = palEntry s.pal i := by
  have hoff : (BitVec.ofNat 32 (0x400 + 4 * i)).toNat = 0x400 + 4 * i := by
    rw [BitVec.toNat_ofNat]
    omega
  rw [registerRead, hoff, if_pos ⟨rfl, by omega⟩, registerValue_palette s hi]

/-- Settles O1: every named register is an arm of the map, and the palette window is `registerRead_palette`. -/
theorem registerMapReads : Obligations.RegisterMapReads := by
  intro s
  -- the clauses in the map's order; those with two parts are the registers whose high bits are unnamed
  refine ⟨fun _ _ _ => step_regRead, rfl, rfl, rfl, extractLsb'_lowBits (by decide) _, extractLsb'_lowBits_above _, rfl,
    extractLsb'_lowBits (by decide) _, extractLsb'_lowBits_above _, extractLsb'_lowBits (by decide) _,
    extractLsb'_lowBits_above _, rfl, rfl, rfl, rfl, rfl, rfl, rfl, rfl, rfl, rfl, rfl, rfl, rfl, fun i hi => ?_⟩
  rw [registerRead_palette s hi, palEntry_eq]

/-! ### CTRL (rule R23) -/

theorem writeCtrl_reset {v : Word} (s : State) (h : v.getLsbD 0 = true) : writeCtrl v s = resetBlock s := by
  simp only [writeCtrl, h, if_true]

/-- RESUME clears HALTED, and ERR_CODE of a halted engine. -/
theorem resumeEngine_eq (s : State) :
    resumeEngine s = { s with halted := false, errCode := if s.halted then 0 else s.errCode } := by
  cases hh : s.halted with
  | true => simp [resumeEngine, hh]
  | false =>
      rw [resumeEngine, if_neg (ne_true_of_eq_false hh)]
      exact congrArg (fun b => { s with halted := b }) hh

/-- FLUSH, if bit 2 asks for it, and then RESUME, if bit 1 does. -/
theorem writeCtrl_flush_resume {v : Word} (s : State) (h : v.getLsbD 0 = false) :
    writeCtrl v s = { s with
      fifo := if v.getLsbD 2 then [] else s.fifo
      halted := if v.getLsbD 1 then false else s.halted
      errCode := if v.getLsbD 1 && s.halted then 0 else s.errCode } := by
  rw [writeCtrl, if_neg (ne_true_of_eq_false h)]
  cases v.getLsbD 1 <;> cases v.getLsbD 2 <;> simp only [resumeEngine_eq] <;> rfl

/-- Settles O2: bit 0 decides between the soft reset and FLUSH with RESUME. -/
theorem ctrlWriteTakesEffectInOrder : Obligations.CtrlWriteTakesEffectInOrder := by
  intro s ev v
  refine ⟨rfl, fun hp => ⟨fun h0 => ?_, fun h0 => ?_⟩⟩
  · rw [step_writeCtrl hp, writeCtrl_reset _ h0]
    rfl
  · rw [step_writeCtrl hp, writeCtrl_flush_resume _ h0]
    rfl

/-! ### STATUS (rule R24) -/

/-- BUSY: not halted, and a complete packet at the head of the FIFO (rules R24, R81). -/
theorem busy_iff {s : State} :
    busy s = true ↔ s.halted = false ∧ ∃ h rest, s.fifo = h :: rest ∧ packetLength h ≤ rest.length + 1 := by
  cases hf : s.fifo <;> simp [busy, hf, packetReady]

theorem fifoEmpty_iff {s : State} : fifoEmpty s = true ↔ s.fifo = [] := List.isEmpty_iff

theorem fifoFull_iff {s : State} : fifoFull s = true ↔ s.fifo.length = s.params.fifoDepth := beq_iff_eq

/-- The named bits of STATUS. -/
theorem statusWord_bits (s : State) :
    (statusWord s).getLsbD 0 = busy s ∧ (statusWord s).getLsbD 1 = s.halted ∧
    (statusWord s).getLsbD 2 = s.cfgValid ∧
    (statusWord s).getLsbD 3 = fifoEmpty s ∧ (statusWord s).getLsbD 4 = fifoFull s ∧
    (statusWord s).getLsbD 5 = irqOvf s := by
  simp only [statusWord, BitVec.getLsbD_append]
  simp

/-- Bits [15:6] of STATUS read 0. -/
theorem statusWord_reserved_mid (s : State) {k : Nat} (hlo : 6 ≤ k) (hhi : k < 16) :
    (statusWord s).getLsbD k = false := by
  obtain ⟨j, rfl⟩ := Nat.exists_eq_add_of_le' hlo
  have hj : j < 10 := by omega
  simp only [statusWord, BitVec.getLsbD_append]
  simp [hj]

/-- Bits [31:24] of STATUS read 0. -/
theorem statusWord_reserved_high (s : State) {k : Nat} (hlo : 24 ≤ k) : (statusWord s).getLsbD k = false := by
  obtain ⟨j, rfl⟩ := Nat.exists_eq_add_of_le' hlo
  simp only [statusWord, BitVec.getLsbD_append]
  simp

/-- FIFO_LEVEL, bits [23:16] of STATUS. -/
theorem statusWord_fifoLevel (s : State) : (statusWord s).extractLsb' 16 8 = BitVec.ofNat 8 s.fifo.length := by
  ext k hk
  simp only [statusWord, BitVec.getElem_extractLsb', BitVec.getLsbD_append]
  simp [hk]

/-- Settles O3, field by field; FIFO_LEVEL is exact because 255 words fit its 8 bits, and FIFO_FULL is 0 at power-on because a
legal FIFO_DEPTH is not 0. -/
theorem statusFieldsReport : Obligations.StatusFieldsReport := by
  refine ⟨fun s hl => ?_, fun p m hp => ?_⟩
  · obtain ⟨hbusy, hhalted, hcfg, hempty, hfull, hovf⟩ := statusWord_bits s
    refine ⟨?_, hhalted, hcfg, ?_, ?_, hovf, fun _ => statusWord_reserved_mid s, ?_,
      fun _ => statusWord_reserved_high s⟩
    · exact hbusy ▸ busy_iff
    · exact hempty ▸ fifoEmpty_iff
    · exact hfull ▸ fifoFull_iff
    · show ((statusWord s).extractLsb' 16 8).toNat = _
      rw [statusWord_fifoLevel, BitVec.toNat_ofNat]
      omega
  · have hfull : fifoFull (State.powerOn p m) = false := by
      have := hp.fifoDepth_low
      simp [fifoFull]
      omega
    show statusWord (State.powerOn p m) = _
    simp [statusWord, hfull, busy, packetReady, fifoEmpty, irqOvf]

/-! ### The interrupt registers and the interrupt line (rules R27, R28, R210) -/

/-- The line is asserted exactly when an event bit is set and enabled. -/
theorem irqLine_iff {s : State} :
    irqLine s = true ↔ ∃ k, k < 3 ∧ s.irqStatus.getLsbD k = true ∧ s.irqEnable.getLsbD k = true := by
  simp only [irqLine, Bool.or_eq_true, Bool.and_eq_true]
  constructor
  · rintro ((h | h) | h)
    · exact ⟨0, by decide, h⟩
    · exact ⟨1, by decide, h⟩
    · exact ⟨2, by decide, h⟩
  · rintro ⟨k, hk, h⟩
    obtain rfl | rfl | rfl : k = 0 ∨ k = 1 ∨ k = 2 := by omega
    · exact .inl (.inl h)
    · exact .inl (.inr h)
    · exact .inr h

theorem irqLine_of_no_event {s : State} (h : s.irqStatus = 0) : irqLine s = false := by simp [irqLine, h]

theorem irqLine_of_none_enabled {s : State} (h : s.irqEnable = 0) : irqLine s = false := by simp [irqLine, h]

/-- Settles O4: each write changes its register alone, and a register left 0 deasserts the line. -/
theorem interruptRegistersAndLine : Obligations.InterruptRegistersAndLine := by
  intro s ev v
  refine ⟨fun hp => ⟨_, step_writeIrqStatus hp, rfl, fun k hk => ?_, fun hv => irqLine_of_no_event ?_⟩,
    fun hp => ⟨_, step_writeIrqEnable hp, rfl, fun k hk => ?_, fun hv => irqLine_of_none_enabled hv⟩, irqLine_iff⟩
  · simp [hk]
  · simp [hv]
  · simp [hk]

/-! ### CMD_FIFO (rule R29) -/

theorem pushFifo_room {s : State} (v : Word) (h : s.fifo.length < s.params.fifoDepth) :
    pushFifo v s = { s with fifo := s.fifo ++ [v] } := if_pos h

theorem pushFifo_full {s : State} (v : Word) (h : s.params.fifoDepth ≤ s.fifo.length) :
    pushFifo v s = setIrq irqOvfBit s := if_neg (Nat.not_lt.2 h)

/-- Settles O5, by whether the FIFO has room. -/
theorem fifoWriteAppendsOrOverflows : Obligations.FifoWriteAppendsOrOverflows := by
  intro s ev w
  refine ⟨fun hp => ⟨fun hroom => ?_, fun hfull => ?_⟩, step_regRead⟩
  · rw [step_pushFifo hp, pushFifo_room (s := setPort s ev) w hroom, decide_eq_true hroom]
    rfl
  · rw [step_pushFifo hp, pushFifo_full (s := setPort s ev) w hfull, decide_eq_false (Nat.not_lt.2 hfull)]
    rfl

/-! ### Ignored accesses (rule R33) -/

/-- Rule R33's grounds for ignoring an access of the register port: its width, its alignment, or its offset. -/
def IgnoredAccess (off : Word) (size : AccessSize) : Prop :=
  size ≠ .word ∨ off.toNat % 4 ≠ 0 ∨ (0x054 ≤ off.toNat ∧ off.toNat < 0x400) ∨ 0x800 ≤ off.toNat

theorem registerRead_ignored {off : Word} {size : AccessSize} (s : State) (h : IgnoredAccess off size) :
    registerRead off size s = 0 := by
  unfold registerRead
  split
  next hok =>
    obtain ⟨hsize, halign⟩ := hok
    exact registerValue_unmapped s ((h.resolve_left (absurd hsize)).resolve_left (absurd halign))
  next => rfl

/-- A write of anything but CTRL, IRQ_STATUS, IRQ_ENABLE and CMD_FIFO, of any width, is ignored. -/
theorem registerWrite_readOnly {off : Word} (size : AccessSize) (v : Word) (s : State) (h1 : off.toNat ≠ 0x004)
    (h2 : off.toNat ≠ 0x014) (h3 : off.toNat ≠ 0x018) (h4 : off.toNat ≠ 0x01C) :
    registerWrite off size v s = s := by
  rw [registerWrite, writeRegister_ignored v s h1 h2 h3 h4, ite_self]

theorem registerWrite_not_word {off : Word} {size : AccessSize} (v : Word) (s : State)
    (h : ¬(size = .word ∧ off.toNat % 4 = 0)) : registerWrite off size v s = s := if_neg h

theorem registerWrite_ignored {off : Word} {size : AccessSize} (v : Word) (s : State) (h : IgnoredAccess off size) :
    registerWrite off size v s = s := by
  by_cases hok : size = .word ∧ off.toNat % 4 = 0
  · obtain ⟨hsize, halign⟩ := hok
    have hoff := (h.resolve_left (absurd hsize)).resolve_left (absurd halign)
    exact registerWrite_readOnly size v s (by omega) (by omega) (by omega) (by omega)
  · exact registerWrite_not_word v s hok

/-- Only a 32-bit write of CMD_FIFO can answer with a bus error. -/
theorem registerWriteFails_false {off : Word} {size : AccessSize} (s : State)
    (h : size ≠ .word ∨ off.toNat ≠ 0x01C) : registerWriteFails off size s = false := by
  rcases h with h | h <;> simp [registerWriteFails, h]

theorem IgnoredAccess.ne_cmdFifo {off : Word} {size : AccessSize} (h : IgnoredAccess off size) :
    size ≠ .word ∨ off.toNat ≠ 0x01C :=
  h.imp_right fun h => by omega

/-- A step at an ignored write. -/
theorem step_regWrite_ignored {s : State} {off : Word} {size : AccessSize} {v : Word} {ev : List PortEvent}
    (hp : s.port = .access (.regWrite off size v) :: ev) (hw : registerWrite off size v (setPort s ev) = setPort s ev)
    (hf : size ≠ .word ∨ off.toNat ≠ 0x01C) :
    step s = .next { s with port := ev, portResponse := some ⟨0, false⟩ } := by
  rw [step_regWrite hp, hw, registerWriteFails_false s hf]
  rfl

/-- Settles O6: what is ignored is also never the failing write of CMD_FIFO. -/
theorem ignoredRegisterAccesses : Obligations.IgnoredRegisterAccesses := by
  intro s ev off size v
  refine ⟨fun (h : IgnoredAccess off size) => ⟨fun hp => ?_, fun hp => ?_⟩, fun h1 h2 h3 h4 hp => ?_⟩
  · rw [step_regRead hp, registerRead_ignored s h]
  · exact step_regWrite_ignored hp (registerWrite_ignored v _ h) h.ne_cmdFifo
  · exact step_regWrite_ignored hp (registerWrite_readOnly size v _ h1 h2 h3 h4) (.inr h4)

/-! ## The engine without a step to take (rules R46, R47, R81) -/

/-- The grounds on which the engine waits. -/
theorem busy_eq_false_iff {s : State} :
    busy s = false ↔
      s.halted = true ∨ s.fifo = [] ∨ ∃ h rest, s.fifo = h :: rest ∧ rest.length + 1 < packetLength h := by
  cases hf : s.fifo <;> cases hh : s.halted <;> simp [busy, hf, hh, packetReady]

/-- At the engine's turn, with BUSY = 0, nothing changes but the script. -/
theorem step_idle {s : State} {ev : List PortEvent} (hturn : (s.port = [] ∧ ev = []) ∨ s.port = .engineTurn :: ev)
    (hb : busy s = false) : step s = .next { s with port := ev } := by
  have hnext : EngineIsNext s ev := hturn.imp_right .inl
  exact (agentStep_engine hnext).trans (engineStep_idle hb)

/-- Settles O7: each ground lowers BUSY. -/
theorem haltedOrIncompleteEngineWaits : Obligations.HaltedOrIncompleteEngineWaits := by
  intro s ev hturn
  have wait := fun hground => step_idle hturn (busy_eq_false_iff.2 hground)
  exact ⟨fun hh => wait (.inl hh), fun hf => wait (.inr (.inl hf)),
    fun h rest hf hl => wait (.inr (.inr ⟨h, rest, hf, hl⟩))⟩

end Sys2Proof.Machine

namespace Sys2Proof.Machine

/-! ## Everything a command can do (rules R32, R40, R182, R201) -/

/-- A command that may write pixel memory: one that draws, CONVERT or UPSCALE. -/
def WritesMem (i : Instr) : Prop :=
  needsConfig i = true ∨ (∃ d a n, i = .convert d a n) ∨ ∃ d a w h f, i = .upscale d a w h f

/-- What a command's writes, before it is counted, make of the state `s`. -/
inductive CommandWrites (s : State) (i : Instr) : State → Prop
  | nothing : CommandWrites s i s
  | memory (m : Memory) (hi : WritesMem i) : CommandWrites s i (setMem s m)
  | result (v : Word) (hi : ∃ c, i = .palAdd c ∨ i = .palFind c) : CommandWrites s i { s with result := v }
  | append (c v : Word) (hi : i = .palAdd c) : CommandWrites s i { s with pal := s.pal ++ [c], result := v }
  | signal (v : Word) (hi : i = .signal v) : CommandWrites s i (setSignal v s)
  | signalIrq (v : Word) (hi : i = .signalIrq v) : CommandWrites s i (setIrq irqSigBit (setSignal v s))
  | configure (f w h bi bf bo : Nat) (hi : i = .init f w h bi bf bo) :
      CommandWrites s i (configure f w h bi bf bo s)

theorem commandWrites_palAdd (c : Word) (s : State) : CommandWrites s (.palAdd c) (palAddEffect c s) := by
  obtain ⟨j, _, _, _, he⟩ | ⟨_, _, he⟩ | ⟨_, _, he⟩ := palAddEffect_cases c s <;> rw [he]
  · exact .result _ ⟨c, .inl rfl⟩
  · exact .append c _ rfl
  · exact .result _ ⟨c, .inl rfl⟩

theorem commandWrites_palFind (c : Word) (s : State) : CommandWrites s (.palFind c) (palFindEffect c s) := by
  obtain ⟨j, _, _, _, he⟩ | ⟨_, he⟩ := palFindEffect_cases c s <;> rw [he] <;> exact .result _ ⟨c, .inr rfl⟩

/-- The answer is a drawing command's with the header of `i`, whose checks find no error only under a valid configuration
(rule R113). -/
def DrawsConfigured (i : Instr) (s : State) (r : Result) : Prop :=
  ∃ err mode draw, r = drawCommand (headerWord i) err mode draw s ∧ (err = none → s.cfgValid = true)

theorem drawsConfigured_drawCommand {i : Instr} {s : State} {err : Option CommandError} {mode : DrawMode}
    {draw : Canvas → Memory → Memory} (h : err = none → s.cfgValid = true) :
    DrawsConfigured i s (drawCommand (headerWord i) err mode draw s) := ⟨err, mode, draw, rfl, h⟩

theorem drawsConfigured_plotCommand (i : Instr) (mode : DrawMode) (pixels : List (Int × Int)) (v : Word) (s : State) :
    DrawsConfigured i s (plotCommand i mode pixels v s) :=
  drawsConfigured_drawCommand fun h => (rasterError_none.1 h).1

/-- Every command of the NOT_INIT row of rule R200 draws under a valid configuration. -/
theorem exec_drawsConfigured {i : Instr} (hi : needsConfig i = true) (s : State) : DrawsConfigured i s (exec i s) := by
  cases i with
  | nop | init | signal | signalIrq | palAdd | palFind | convert | upscale => exact nomatch hi
  | clear | clearI => exact drawsConfigured_drawCommand fun h => (rasterError_none.1 h).1
  | pixel | pixelB | pixelI | line | lineB | lineI | linep | linepB | linepI | rect | rectB | rectI
  | fill | fillB | fillI => exact drawsConfigured_plotCommand _ _ _ _ _
  | blit | blitB => exact drawsConfigured_drawCommand fun h => (blitError_none.1 h).1
  | light | lightB => exact drawsConfigured_drawCommand fun h => (lightError_none.1 h).1

/-- The answer is that of a command with the header of `i` that makes its writes, or raises before any. -/
def Finishes (i : Instr) (s : State) (r : Result) : Prop :=
  ∃ err effect, r = finishCommand (headerWord i) err effect s ∧ CommandWrites s i (effect s)

theorem finishes_finishCommand {i : Instr} {s : State} {err : Option CommandError} {effect : State → State}
    (h : CommandWrites s i (effect s)) : Finishes i s (finishCommand (headerWord i) err effect s) :=
  ⟨err, effect, rfl, h⟩

/-- Every other command but INIT finishes. -/
theorem exec_finishes {i : Instr} (hi : needsConfig i = false) (hinit : ¬IsInit i) (s : State) :
    Finishes i s (exec i s) := by
  cases i with
  | nop => exact (finishes_finishCommand .nothing : Finishes _ s (execNop s))
  | init => exact absurd ⟨_, _, _, _, _, _, rfl⟩ hinit
  | signal v => exact (finishes_finishCommand (.signal v rfl) : Finishes _ s (execSignal v s))
  | signalIrq v => exact (finishes_finishCommand (.signalIrq v rfl) : Finishes _ s (execSignalIrq v s))
  | palAdd c => exact (finishes_finishCommand (commandWrites_palAdd c s) : Finishes _ s (execPalAdd c s))
  | palFind c => exact (finishes_finishCommand (commandWrites_palFind c s) : Finishes _ s (execPalFind c s))
  | convert dst src n =>
      exact (finishes_finishCommand (.memory _ (.inr (.inl ⟨_, _, _, rfl⟩))) : Finishes _ s (execConvert dst src n s))
  | upscale dst src w h f =>
      exact (finishes_finishCommand (.memory _ (.inr (.inr ⟨_, _, _, _, _, rfl⟩))) :
        Finishes _ s (execUpscale dst src w h f s))
  | clear | clearI | pixel | pixelB | pixelI | line | lineB | lineI | linep | linepB | linepI | rect | rectB | rectI
  | fill | fillB | fillI | blit | blitB | light | lightB => exact nomatch hi

/-- INIT configures, or clears CFG_VALID and raises (rule R182). -/
theorem exec_init (f w h bi bf bo : Nat) (s : State) :
    exec (.init f w h bi bf bo) s = .next (countCommand (configure f w h bi bf bo s)) ∨
      ∃ e, exec (.init f w h bi bf bo) s =
        .next (raiseError e (headerWord (.init f w h bi bf bo)) (invalidateConfig s)) := by
  cases herr : initError f w h bi bf bo s with
  | none => exact .inl (by simp [exec, execInit, herr])
  | some e => exact .inr ⟨e, by simp [exec, execInit, herr]⟩

/-- Everything a command that answers a next state can do: make its writes and count, or raise an error; a
failed INIT also clears CFG_VALID. -/
theorem exec_next {i : Instr} {s t : State} (ht : exec i s = .next t) :
    (∃ u, CommandWrites s i u ∧ t = countCommand u) ∨
    (∃ e, ¬IsInit i ∧ t = raiseError e (headerWord i) s) ∨
    ∃ e, IsInit i ∧ t = raiseError e (headerWord i) (invalidateConfig s) := by
  by_cases hinit : IsInit i
  · have hi := hinit
    obtain ⟨f, w, h, bi, bf, bo, rfl⟩ := hi
    obtain he | ⟨e, he⟩ := exec_init f w h bi bf bo s <;> rw [ht] at he <;> cases he
    · exact .inl ⟨_, .configure f w h bi bf bo rfl, rfl⟩
    · exact .inr (.inr ⟨e, hinit, rfl⟩)
  cases hi : needsConfig i with
  | true =>
      obtain ⟨err, mode, draw, hexec, -⟩ := exec_drawsConfigured hi s
      rw [hexec] at ht
      obtain ⟨e, -, he⟩ | ⟨-, -, he⟩ | ⟨-, -, he⟩ := drawCommand_cases (headerWord i) err mode draw s <;>
        rw [ht] at he <;> cases he
      · exact .inr (.inl ⟨e, hinit, rfl⟩)
      · exact .inl ⟨_, .memory _ (.inl hi), rfl⟩
  | false =>
      obtain ⟨err, effect, hexec, hw⟩ := exec_finishes hi hinit s
      rw [hexec] at ht
      obtain ⟨e, -, rfl⟩ | ⟨-, rfl⟩ := finishCommand_next ht
      · exact .inr (.inl ⟨e, hinit, rfl⟩)
      · exact .inl ⟨_, hw, rfl⟩

/-! ### What the writes of a command leave unchanged -/

/-- The writes of a command touch neither CMD_COUNT nor an error register, nor IRQ_STATUS.ERR. -/
theorem CommandWrites.errors {s u : State} {i : Instr} (h : CommandWrites s i u) :
    u.cmdCount = s.cmdCount ∧ u.halted = s.halted ∧ u.errCode = s.errCode ∧ u.errHeader = s.errHeader ∧
      u.irqStatus.getLsbD 1 = s.irqStatus.getLsbD 1 := by
  cases h <;> simp [irqSigBit]

/-- Settles O49, by the three ends of a command. -/
theorem commandsCompleteOrRaisePrecisely : Obligations.CommandsCompleteOrRaisePrecisely := by
  intro i s t ht
  obtain ⟨u, hw, rfl⟩ | ⟨e, hinit, rfl⟩ | ⟨e, hinit, rfl⟩ := exec_next ht
  · obtain ⟨hcount, herrors⟩ := hw.errors
    exact .inl ⟨congrArg (· + 1#32) hcount, herrors⟩
  · exact .inr ⟨e, rfl, fun h => absurd h hinit, fun _ => rfl⟩
  · exact .inr ⟨e, rfl, fun _ => rfl, fun h => absurd hinit h⟩

/-- Settles O52: the palette is kept, appended to, or emptied by INIT's writes. -/
theorem paletteNeverShrinksInSession : Obligations.PaletteNeverShrinksInSession := by
  intro i s t ht
  obtain ⟨u, hw, rfl⟩ | ⟨e, -, rfl⟩ | ⟨e, -, rfl⟩ := exec_next ht
  · cases hw with
    | nothing | memory | result | signal | signalIrq => exact .inl (List.prefix_refl _)
    | append c => exact .inl (List.prefix_append s.pal [c])
    | configure f w h bi bf bo hi => exact .inr ⟨⟨f, w, h, bi, bf, bo, hi⟩, rfl, rfl⟩
  · exact .inl (List.prefix_refl _)
  · exact .inl (List.prefix_refl _)

/-! ### Which command changes which state (rules R30, R31, R40, R50, R211) -/

/-- Settles O50, write by write; a raised error changes none of these fields but INIT's CFG_VALID. -/
theorem onlyNamedCommandsWriteState : Obligations.OnlyNamedCommandsWriteState := by
  intro i s t ht
  obtain ⟨u, hw, rfl⟩ | ⟨e, -, rfl⟩ | ⟨e, hinit, rfl⟩ := exec_next ht
  · cases hw with
    | nothing => simp
    | memory m hi => simpa [WritesMem] using fun _ => hi
    | result v hi => simpa using fun _ => hi
    | append c v hi => simp [hi]
    | signal v hi => simp [hi]
    | signalIrq v hi => simp [hi]
    | configure f w h bi bf bo hi => simp [IsInit, hi]
  · simp
  · simp [hinit]

/-! ## No stop (rules R62, R205) -/

/-- A command that does not draw always answers a next state. -/
theorem finishCommand_answers (h : Word) (err : Option CommandError) (effect : State → State) (s : State) :
    ∃ t, finishCommand h err effect s = .next t := by
  cases err with
  | none => exact ⟨_, finishCommand_none h effect s⟩
  | some e => exact ⟨_, finishCommand_some h e effect s⟩

/-- A drawing command that needs a valid configuration finds its target inside PMEM. -/
theorem DrawsConfigured.answers {i : Instr} {s : State} {r : Result} (hd : DrawsConfigured i s r) (h : Inv s) :
    ∃ t, r = .next t := by
  obtain ⟨err, mode, draw, rfl, hvalid⟩ := hd
  cases err with
  | some e => exact ⟨_, drawCommand_some ..⟩
  | none => exact ⟨_, drawCommand_none (targetInside_of_config (h.config (hvalid rfl)) mode)⟩

/-- From the invariant every command answers a next state. -/
theorem exec_answers {s : State} (h : Inv s) (i : Instr) : ∃ t, exec i s = .next t := by
  by_cases hinit : IsInit i
  · obtain ⟨f, w, ht, bi, bf, bo, rfl⟩ := hinit
    exact finishCommand_answers ..
  cases hi : needsConfig i with
  | true => exact (exec_drawsConfigured hi s).answers h
  | false =>
      obtain ⟨err, effect, he, -⟩ := exec_finishes hi hinit s
      exact he ▸ finishCommand_answers ..

theorem engineStep_answers {s : State} (h : Inv s) : ∃ t, engineStep s = .next t := by
  obtain he | ⟨hd, rest, -, -, -, ⟨i, -, he⟩ | ⟨e, -, he⟩⟩ := engineStep_cases s <;> rw [he]
  · exact ⟨_, rfl⟩
  · exact exec_answers (h.setFifo ((List.drop_sublist _ _).length_le.trans h.fifo)) i
  · exact ⟨_, rfl⟩

/-- Settles O56: only a command could stop, and `exec_answers` says that none does. -/
theorem noStopFromInvariant : Obligations.NoStopFromInvariant := by
  intro s h
  obtain ⟨ev, -, he⟩ | ⟨ev, -, he⟩ | ⟨a, ev, -, -, he⟩ := step_cases s <;> rw [he]
  · exact engineStep_answers (h.setPort ev)
  · exact ⟨_, rfl⟩
  · exact ⟨_, rfl⟩

end Sys2Proof.Machine

namespace Sys2Proof.Machine

/-! ## The memory port (rules R62 to R64, R69, R70) -/

/-! ### Bytes of a word -/

/-- Byte `k` of a word read is the byte `k` addresses on: little-endian (rule R63). -/
theorem extractLsb'_readWord (m : Memory) (a : Nat) {k : Nat} (hk : k < 4) :
    (readWord m a).extractLsb' (8 * k) 8 = readByte m (a + k) := by
  rw [readWord]
  obtain rfl | rfl | rfl | rfl : k = 0 ∨ k = 1 ∨ k = 2 ∨ k = 3 := by omega
  · exact BitVec.extractLsb'_append_eq_right
  · rw [BitVec.extractLsb'_append_eq_of_le (by omega)]
    exact BitVec.extractLsb'_append_eq_right
  · rw [BitVec.extractLsb'_append_eq_of_le (by omega), BitVec.extractLsb'_append_eq_of_le (by omega)]
    exact BitVec.extractLsb'_append_eq_right
  · rw [BitVec.extractLsb'_append_eq_of_le (by omega), BitVec.extractLsb'_append_eq_of_le (by omega),
      BitVec.extractLsb'_append_eq_of_le (by omega)]
    exact BitVec.extractLsb'_eq_self

/-- Byte `k` of a word written is stored `k` addresses on (rule R63). -/
theorem readByte_writeWord_byte {m : Memory} (a : Nat) (v : Word) (hw : Memory.wf m = true) {k : Nat} (hk : k < 4) :
    readByte (writeWord m a v) (a + k) = v.extractLsb' (8 * k) 8 := by
  rw [← extractLsb'_readWord _ _ hk, readWord_writeWord_self a v hw]

/-! ### A step at a memory access while BUSY = 0 -/

theorem memAccessOk_byte {a : Nat} {s : State} : memAccessOk a 1 s = true ↔ a < s.params.pmemSize := by
  simp [memAccessOk, Nat.mod_one]

theorem memAccessOk_word {a : Nat} {s : State} :
    memAccessOk a 4 s = true ↔ a % 4 = 0 ∧ a + 4 ≤ s.params.pmemSize := by
  simp [memAccessOk]

/-- Rule R69's grounds for the bus error of a memory access: it is misaligned or leaves PMEM. -/
def MemAccessFails : HostAccess → State → Prop
  | .memReadByte a, s | .memWriteByte a _, s => s.params.pmemSize ≤ a.toNat
  | .memReadWord a, s | .memWriteWord a _, s => a.toNat % 4 ≠ 0 ∨ s.params.pmemSize < a.toNat + 4
  | .regRead _ _, _ | .regWrite _ _ _, _ => False

section
variable {s : State} {ev : List PortEvent} {a : Word}

/-- A memory access that fails answers with a bus error and does nothing else. -/
theorem step_memAccess_busError {acc : HostAccess} (hp : s.port = .access acc :: ev) (hb : busy s = false)
    (hfail : MemAccessFails acc s) :
    step s = .next { s with port := ev, portResponse := some ⟨0, true⟩ } := by
  have hstep : step s = .next (hostAccess acc (setPort s ev)) := agentStep_access hp (.inr hb)
  rw [hstep]
  cases acc with
  | regRead | regWrite => exact hfail.elim
  | memReadByte | memWriteByte => exact congrArg _ (if_neg (mt memAccessOk_byte.1 (Nat.not_lt.2 hfail)))
  | memReadWord a | memWriteWord a =>
      have hbad : ¬(a.toNat % 4 = 0 ∧ a.toNat + 4 ≤ s.params.pmemSize) := by
        simp only [MemAccessFails] at hfail
        omega
      exact congrArg _ (if_neg (mt memAccessOk_word.1 hbad))

/-- An accepted byte read. -/
theorem step_memReadByte (hp : s.port = .access (.memReadByte a) :: ev) (hb : busy s = false)
    (hin : a.toNat < s.params.pmemSize) :
    step s = .next (respond ((readByte s.mem a.toNat).setWidth 32) false (setPort s ev)) :=
  (agentStep_access hp (.inr hb)).trans (congrArg _ (if_pos (memAccessOk_byte.2 hin)))

/-- An accepted word read. -/
theorem step_memReadWord (hp : s.port = .access (.memReadWord a) :: ev) (hb : busy s = false)
    (hal : a.toNat % 4 = 0) (hin : a.toNat + 4 ≤ s.params.pmemSize) :
    step s = .next (respond (readWord s.mem a.toNat) false (setPort s ev)) :=
  (agentStep_access hp (.inr hb)).trans (congrArg _ (if_pos (memAccessOk_word.2 ⟨hal, hin⟩)))

/-- An accepted byte write. -/
theorem step_memWriteByte {b : Byte} (hp : s.port = .access (.memWriteByte a b) :: ev) (hb : busy s = false)
    (hin : a.toNat < s.params.pmemSize) :
    step s = .next (respond 0#32 false (setMem (setPort s ev) (writeByte s.mem a.toNat b))) :=
  (agentStep_access hp (.inr hb)).trans (congrArg _ (if_pos (memAccessOk_byte.2 hin)))

/-- An accepted word write. -/
theorem step_memWriteWord {v : Word} (hp : s.port = .access (.memWriteWord a v) :: ev) (hb : busy s = false)
    (hal : a.toNat % 4 = 0) (hin : a.toNat + 4 ≤ s.params.pmemSize) :
    step s = .next (respond 0#32 false (setMem (setPort s ev) (writeWord s.mem a.toNat v))) :=
  (agentStep_access hp (.inr hb)).trans (congrArg _ (if_pos (memAccessOk_word.2 ⟨hal, hin⟩)))

end

/-- Settles O8: an access inside PMEM is one of the four accepted ones, any other a bus error. -/
theorem memoryPortAccesses : Obligations.MemoryPortAccesses := by
  intro s ev a b v hinv hb
  have hw := hinv.mem.canonical
  refine ⟨fun hp => ⟨fun hin => ?_, step_memAccess_busError hp hb⟩,
    fun hp => ⟨fun hal hin => ?_, step_memAccess_busError hp hb⟩,
    fun hp => ⟨fun hin => ?_, step_memAccess_busError hp hb⟩,
    fun hp => ⟨fun hal hin => ?_, step_memAccess_busError hp hb⟩⟩
  · exact ⟨_, step_memReadByte hp hb hin, extractLsb'_lowBits (by decide) _, extractLsb'_lowBits_above _⟩
  · exact ⟨_, step_memReadWord hp hb hal hin, fun k => extractLsb'_readWord s.mem a.toNat⟩
  · exact ⟨_, step_memWriteByte hp hb hin, rfl, readByte_writeByte_self _ _ hw,
      fun k hk => readByte_writeByte_ne _ (by omega)⟩
  · exact ⟨_, step_memWriteWord hp hb hal hin, rfl, fun k => readByte_writeWord_byte _ _ hw,
      fun k => readByte_writeWord_ne _⟩

/-! ### A memory access while BUSY = 1 -/

/-- A command changes neither the FIFO nor the ports. -/
theorem exec_keeps_fifo_ports {i : Instr} {s t : State} (ht : exec i s = .next t) :
    t.port = s.port ∧ t.portResponse = s.portResponse ∧ t.fifo = s.fifo := by
  obtain ⟨⟨-, hfifo, -, hport, hresp⟩, -⟩ := onlyNamedCommandsWriteState i s t ht
  exact ⟨hport, hresp, hfifo⟩

/-- A busy engine's step takes a packet, of at least one word, from the FIFO and leaves the ports alone (rules R70,
R81). -/
theorem engineStep_busy {s t : State} (hb : busy s = true) (ht : engineStep s = .next t) :
    t.port = s.port ∧ t.portResponse = s.portResponse ∧ t.fifo.length < s.fifo.length := by
  obtain ⟨hh, h, rest, hf, hl⟩ := busy_iff.1 hb
  have shorter : ((h :: rest).drop (packetLength h)).length < s.fifo.length := by
    have := packetLength_pos h
    simp [hf]
    omega
  cases hd : decodePacket h (rest.take (packetLength h - 1)) with
  | instr i =>
      rw [engineStep_instr hh hf hl hd] at ht
      obtain ⟨hport, hresp, hfifo⟩ := exec_keeps_fifo_ports ht
      exact ⟨hport, hresp, hfifo ▸ shorter⟩
  | error e =>
      rw [engineStep_error hh hf hl hd] at ht
      cases ht
      exact ⟨rfl, rfl, shorter⟩

/-- A memory access leaves the script alone and an answer behind. -/
theorem hostAccess_mem_answers {a : HostAccess} (ha : isMemAccess a = true) (s : State) :
    (hostAccess a s).port = s.port ∧ (hostAccess a s).portResponse.isSome = true := by
  cases a with
  | regRead | regWrite => exact nomatch ha
  | memReadByte | memReadWord | memWriteByte | memWriteWord => unfold hostAccess; dsimp only; split <;> simp

/-- Settles O9: while BUSY = 1 the step at the access is the engine's, and the engine is busy. -/
theorem memoryAccessIsHeldWhileBusy : Obligations.MemoryAccessIsHeldWhileBusy := by
  intro s a ev hp ha
  refine ⟨fun hb => ?_, fun hb => ?_⟩
  · have held : step s = engineStep s := agentStep_held hp ha hb
    have turn := agentStep_engineTurn (s := setPort s (.engineTurn :: s.port)) rfl
    exact ⟨held.trans turn.symm, fun t ht => engineStep_busy hb (held ▸ ht)⟩
  · exact ⟨_, agentStep_access hp (.inr hb), hostAccess_mem_answers ha (setPort s ev)⟩

end Sys2Proof.Machine

namespace Sys2Proof.Machine

/-! ## Blending the boundary of a rectangle (rules R123, R124) -/

/-! ### Commands that blend a list of pixels -/

/-- A command that blends a list of pixels blends each framebuffer pixel as many times as it is listed. -/
theorem drawsFb_blend {i : Instr} {pixels : List (Int × Int)} {v : Word} {s : State}
    (hi : exec i s = plotCommand i .blend pixels v s) (h : Inv s) (hv : s.cfgValid = true) :
    DrawsFb i s fun px py old => (blend v)^[pixels.count ((px : Int), (py : Int))] old := by
  have herr : rasterError .blend v s = none := rasterError_none.2 ⟨hv, nofun⟩
  refine ⟨countCommand (setMem s (plotAll .blend (canvas s) v pixels s.mem)), ?_, rfl, fun px py hx hy => ?_,
    fun a => ?_⟩
  · rw [hi, plotCommand, herr, drawCommand_none (targetInside_of_config (h.config hv) .blend)]
  · exact readWord_plotAll_blend (cv := canvas s) hx hy pixels h.mem.canonical
  · exact fun ha => readByte_plotAll_outside (mode := .blend) (cv := canvas s) ha pixels s.mem

/-! ### Horizontal and vertical lines (rule R117) -/

/-- The loop ends at the far endpoint. -/
theorem bresenhamFrom_end (dx dy sx sy x y err : Int) (fuel : Nat) :
    bresenhamFrom dx dy sx sy x y (fuel + 1) x y err = [(x, y)] := by
  simp [bresenhamFrom]

/-- On a horizontal line that runs rightwards the loop steps right and keeps its error accumulator. -/
theorem bresenhamFrom_right {dx sy x1 y x : Int} (hdx : 0 < dx) (hx : x ≠ x1) (fuel : Nat) :
    bresenhamFrom dx 0 1 sy x1 y (fuel + 1) x y dx = (x, y) :: bresenhamFrom dx 0 1 sy x1 y fuel (x + 1) y dx := by
  have hstay : ¬2 * dx < dx := by omega
  simp [bresenhamFrom, hx, hdx, hstay]

/-- From `n` pixels before its end, that loop lists every pixel of the line once. -/
theorem count_bresenhamFrom_right {dx sy x1 y px py : Int} (hdx : 0 < dx) (n : Nat) :
    ∀ x, x + n = x1 → (bresenhamFrom dx 0 1 sy x1 y (n + 1) x y dx).count (px, py) =
      if py = y ∧ x ≤ px ∧ px ≤ x1 then 1 else 0 := by
  induction n with
  | zero =>
      rintro x rfl
      simp only [Nat.cast_zero, Int.add_zero, bresenhamFrom_end, List.count_singleton, beq_iff_eq, Prod.mk.injEq]
      split_ifs <;> omega
  | succ n ih =>
      intro x hx
      rw [bresenhamFrom_right hdx (by omega), List.count_cons, ih (x + 1) (by omega)]
      simp only [beq_iff_eq, Prod.mk.injEq]
      split_ifs <;> omega

/-- A horizontal line lists every pixel from its left to its right end once. -/
theorem count_bresenhamPixels_horizontal {x x1 : Int} (hx : x ≤ x1) (y px py : Int) :
    (bresenhamPixels x y x1 y).count (px, py) = if py = y ∧ x ≤ px ∧ px ≤ x1 then 1 else 0 := by
  obtain rfl | hlt := hx.eq_or_lt
  · simp only [bresenhamPixels, bresenhamFrom_end, List.count_singleton, beq_iff_eq, Prod.mk.injEq]
    split_ifs <;> omega
  · obtain ⟨n, hn⟩ := Int.le.dest hx
    have hdx : (x1 - x).natAbs = n := by omega
    simp only [bresenhamPixels, hdx, if_pos hlt]
    simpa using count_bresenhamFrom_right (by omega) n x hn

/-- Exchanging the axes mirrors the loop: the error accumulator changes its sign. -/
theorem bresenhamFrom_swap (dx dy sx sy x1 y1 : Int) (fuel : Nat) : ∀ x y err,
    bresenhamFrom dy dx sy sx y1 x1 fuel y x (-err) =
      (bresenhamFrom dx dy sx sy x1 y1 fuel x y err).map Prod.swap := by
  induction fuel with
  | zero => exact fun _ _ _ => rfl
  | succ fuel ih =>
      intro x y err
      have hx : 2 * -err > -dx ↔ 2 * err < dx := by omega
      have hy : 2 * -err < dy ↔ 2 * err > -dy := by omega
      have herr : -err + (if 2 * err < dx then -dx else 0) + (if 2 * err > -dy then dy else 0) =
          -(err + (if 2 * err > -dy then -dy else 0) + (if 2 * err < dx then dx else 0)) := by
        split_ifs <;> omega
      simp only [bresenhamFrom, hx, hy, decide_eq_true_eq, herr, ih, List.map_cons, Prod.swap_prod_mk,
        apply_ite (List.map Prod.swap), List.map_nil, and_comm (a := y = y1)]

/-- Exchanging the axes mirrors the pixel list. -/
theorem bresenhamPixels_swap (x0 y0 x1 y1 : Int) :
    bresenhamPixels y0 x0 y1 x1 = (bresenhamPixels x0 y0 x1 y1).map Prod.swap := by
  simp only [bresenhamPixels, ← bresenhamFrom_swap, max_comm, Int.neg_sub]

/-- A vertical line, the mirror of a horizontal one. -/
theorem count_bresenhamPixels_vertical {y y1 : Int} (hy : y ≤ y1) (x px py : Int) :
    (bresenhamPixels x y x y1).count (px, py) = if px = x ∧ y ≤ py ∧ py ≤ y1 then 1 else 0 := by
  rw [bresenhamPixels_swap y x y1 x, ← Prod.swap_prod_mk, List.count_map_of_injective _ _ Prod.swap_injective,
    count_bresenhamPixels_horizontal hy]

/-! ### The boundary of a rectangle (rules R123, R124) -/

/-- The four boundary lines list a pixel of the rectangle once for each line through it, and no other pixel. -/
theorem count_outlinePixels (x y w h : Int) (px py : Nat) :
    (outlinePixels x y w h).count ((px : Int), (py : Int)) =
      if InRect x y w h px py then outlineCount x y w h px py else 0 := by
  by_cases hwh : 1 ≤ w ∧ 1 ≤ h
  · obtain ⟨hw, hh⟩ := hwh
    rw [outlinePixels, if_pos ⟨hw, hh⟩]
    simp only [List.count_append, count_bresenhamPixels_horizontal (show x ≤ x + w - 1 by omega),
      count_bresenhamPixels_vertical (show y ≤ y + h - 1 by omega)]
    by_cases hin : InRect x y w h px py
    · have hcol : x ≤ px ∧ (px : Int) ≤ x + w - 1 := by omega
      have hrow : y ≤ py ∧ (py : Int) ≤ y + h - 1 := by omega
      rw [if_pos hin]
      simp only [hcol, hrow, and_true, outlineCount]
    · rw [if_neg hin, if_neg (by omega), if_neg (by omega), if_neg (by omega), if_neg (by omega)]
  · rw [outlinePixels, if_neg hwh, if_neg (by omega), List.count_nil]

/-- Settles O29: RECT.B blends the pixels of the outline, which `count_outlinePixels` counts. -/
theorem rectBlendsOncePerBoundaryLine : Obligations.RectBlendsOncePerBoundaryLine := by
  intro s x y w h v hinv hv
  have draws := drawsFb_blend (i := .rectB x y w h v) (pixels := outlinePixels x y w h) rfl hinv hv
  simp only [count_outlinePixels, apply_ite (fun n => (blend v)^[n]), ite_apply] at draws
  exact draws

end Sys2Proof.Machine

namespace Sys2Proof

/-! ## Packets and commands correspond (rules R80, R82, R84, R86 to R92) -/

/-! ### Everything the opcode map can answer (rules R86, R89) -/

/-- The operand words that `ops` gives a packet with `n` of them, a missing one read as 0 (rule R9). -/
def readOperands (ops : List Word) (n : Nat) : List Word := (List.range n).map fun k => operandWord ops (k + 1)

/-- No operand word is missing from a packet of the right length. -/
theorem readOperands_length (ops : List Word) : readOperands ops ops.length = ops :=
  List.ext_getElem (by simp [readOperands]) fun k _ hk => by simp [readOperands, operandWord, hk]

/-- `i` is read from the header `h` and the words `ops`: it has that header, and each of its operands is in range and
encodes to the word it was read from. -/
def ReadFrom (h : Word) (ops : List Word) (i : Instr) : Prop :=
  headerWord i = h ∧ i.wellFormed = true ∧ operandWords i = readOperands ops (operandWords i).length

/-- The opcode map answers a command that it read from the header and the words, or `BAD_MODE`. -/
theorem decodeMode_cases (opcode mode : Nat) (ops : List Word) :
    (∃ i, decodeMode opcode mode ops = .instr i ∧ ReadFrom (headerValue opcode mode) ops i) ∨
      decodeMode opcode mode ops = .error .badMode := by
  unfold decodeMode
  -- one argument for the arm of every command: its operand words read back as `signedWord_signedOperand` and
  -- `unsignedWord_unsignedOperand` say
  split
  case h_30 => exact .inr rfl
  all_goals
    exact .inl ⟨_, rfl, rfl, by simp [Instr.wellFormed, signedAt, unsignedAt],
      by simp [operandWords, readOperands, signedAt, unsignedAt, List.range_succ]⟩

/-! ### Everything the decoder can answer (rules R87 to R89, R92) -/

theorem decodePacket_illegalOpcode {h : Word} (hl : opcodeLength (headerOpcode h) = none) (ops : List Word) :
    decodePacket h ops = .error .illegalOpcode := by
  simp [decodePacket, hl]

theorem decodePacket_reservedBits {h : Word} (hl : opcodeLength (headerOpcode h) ≠ none) (hr : headerReserved h ≠ 0)
    (ops : List Word) : decodePacket h ops = .error .reservedBits :=
  (if_neg (by simpa using hl)).trans (if_pos hr)

/-- A header with a legal opcode and clear reserved bits decodes to a command that was read from the packet's words, or
raises `BAD_MODE`. -/
theorem decodePacket_legal_cases {h : Word} (hl : opcodeLength (headerOpcode h) ≠ none) (hr : headerReserved h = 0)
    (ops : List Word) :
    (∃ i, decodePacket h ops = .instr i ∧ ReadFrom h ops i) ∨ decodePacket h ops = .error .badMode := by
  obtain ⟨n, hn⟩ := Option.ne_none_iff_exists'.1 hl
  have hcases := decodeMode_cases (headerOpcode h).toNat (headerMode h).toNat ops
  rwa [← header_of_fields hr, ← decodePacket_of_legal hr hn] at hcases

/-- A header that is no command's raises `BAD_MODE`. -/
theorem decodePacket_badMode {h : Word} (hl : opcodeLength (headerOpcode h) ≠ none) (hr : headerReserved h = 0)
    (hno : ∀ i : Instr, headerWord i ≠ h) (ops : List Word) : decodePacket h ops = .error .badMode := by
  rcases decodePacket_legal_cases hl hr ops with ⟨i, -, hi, -⟩ | hbad
  · exact absurd hi (hno i)
  · exact hbad

/-- A command is only decoded from its own header and operand words. -/
theorem decodePacket_instr {h : Word} {ops : List Word} {i : Instr} (hd : decodePacket h ops = .instr i) :
    ReadFrom h ops i := by
  by_cases hl : opcodeLength (headerOpcode h) = none
  · simp [decodePacket_illegalOpcode hl] at hd
  by_cases hr : headerReserved h = 0
  · rcases decodePacket_legal_cases hl hr ops with ⟨j, hj, hread⟩ | hbad
    · obtain rfl : j = i := by simpa [hj] using hd
      exact hread
    · simp [hbad] at hd
  · simp [decodePacket_reservedBits hl hr] at hd

/-! ### Both round trips -/

/-- Settles O12: `decodePacket_headerWord` decodes the packet, and `packetLength_headerWord` counts its words. -/
theorem decodeOfEncodeIsIdentity : Obligations.DecodeOfEncodeIsIdentity :=
  fun i hw => ⟨decodePacket_headerWord hw, (packetLength_headerWord i).symm⟩

/-- Settles O13: the command has the header and as many operands as there are words (`packetLength_headerWord`), so
the words it was read from are all of them. -/
theorem encodeOfDecodeIsIdentity : Obligations.EncodeOfDecodeIsIdentity := by
  intro h ops i hlen hd
  obtain ⟨rfl, hw, hops⟩ := decodePacket_instr hd
  have hcount : (operandWords i).length = ops.length := by
    rw [packetLength_headerWord] at hlen
    omega
  rw [hcount, readOperands_length] at hops
  exact ⟨hw, congrArg (headerWord i :: ·) hops⟩

/-- Settles O14: twelve closed packets, each decoded by evaluation. -/
theorem vectorPacketsDecode : Obligations.VectorPacketsDecode := by
  unfold Obligations.VectorPacketsDecode
  decide

end Sys2Proof

namespace Sys2Proof.Machine

/-! ## Bad headers (rules R87 to R89, R201, R202) -/

/-- When the engine is next, a complete packet whose header is bad is removed and its error raised. -/
theorem step_error {s : State} {h : Word} {rest : List Word} {ev : List PortEvent} {e : CommandError}
    (hnext : EngineIsNext s ev) (hh : s.halted = false) (hf : s.fifo = h :: rest)
    (hl : packetLength h ≤ rest.length + 1) (hd : ∀ ops, decodePacket h ops = .error e) :
    step s = .next (raiseError e h (setFifo (setPort s ev) (rest.drop (packetLength h - 1)))) := by
  have hdrop : (h :: rest).drop (packetLength h) = rest.drop (packetLength h - 1) := by
    rw [List.drop_cons (packetLength_pos h)]
  rw [← hdrop]
  exact (agentStep_engine hnext).trans (engineStep_error (s := setPort s ev) hh hf hl (hd _))

/-- Settles O11: `step_error` for each of the three errors; an illegal opcode has length 1 (rule R87). -/
theorem malformedHeaderRaisesItsError : Obligations.MalformedHeaderRaisesItsError := by
  intro s h rest ev hnext hh hf hl
  refine ⟨fun hop => ?_, fun hop hr => ?_, fun hop hr hno => ?_⟩
  · have hone : packetLength h - 1 = 0 := by simp [packetLength, hop]
    have hstep := step_error hnext hh hf hl (decodePacket_illegalOpcode hop)
    rw [hone] at hstep
    exact hstep
  · exact step_error hnext hh hf hl (decodePacket_reservedBits hop hr)
  · exact step_error hnext hh hf hl (decodePacket_badMode hop hr hno)

end Sys2Proof.Machine

namespace Sys2Proof.Machine

/-! ## The palette commands (rules R100 to R103) -/

/-! ### Which index lookup finds (rule R100) -/

/-- Lookup finds the only index of a colour. -/
theorem palLookup_of_unique {pal : List Word} {c : Word} {j : Nat} (hj : j < pal.length) (hc : pal[j] = c)
    (huniq : ∀ (k : Nat) (hk : k < pal.length), pal[k] = c → k = j) : palLookup pal c = some j := by
  cases h : palLookup pal c with
  | none => exact absurd (hc ▸ List.getElem_mem hj) (palLookup_none.1 h)
  | some k =>
      obtain ⟨hk, hkc⟩ := palLookup_some h
      rw [huniq k hk hkc]

/-- The entries of a palette without duplicates (rule R41) are found where they stand. -/
theorem palLookup_of_nodup {pal : List Word} {c : Word} {j : Nat} (hj : j < pal.length) (hn : pal.Nodup)
    (hc : pal[j] = c) : palLookup pal c = some j :=
  palLookup_of_unique hj hc fun _ _ hkc => hn.getElem_inj_iff.1 (hkc.trans hc.symm)

/-- A new colour is found where it was appended. -/
theorem palLookup_append_new {pal : List Word} {c : Word} (hc : c ∉ pal) :
    palLookup (pal ++ [c]) c = some pal.length := by
  refine palLookup_of_unique (by simp) (by simp) fun k hk hkc => ?_
  by_cases hold : k < pal.length
  · rw [List.getElem_append_left hold] at hkc
    exact absurd (hkc ▸ List.getElem_mem hold) hc
  · rw [List.length_append, List.length_singleton] at hk
    omega

/-- RESULT holds every index of a palette of at most 256 entries. -/
theorem getElem?_toNat_ofNat {pal : List Word} {c : Word} {j : Nat} (hl : pal.length ≤ 256) (hj : j < pal.length)
    (hc : pal[j] = c) : pal[(BitVec.ofNat 32 j).toNat]? = some c := by
  rw [BitVec.toNat_ofNat, Nat.mod_eq_of_lt (by omega), List.getElem?_eq_getElem hj, hc]

/-! ### What PAL_ADD and PAL_FIND answer, by what lookup finds (rules R101, R102) -/

theorem exec_palAdd (c : Word) (s : State) : exec (.palAdd c) s = .next (countCommand (palAddEffect c s)) := rfl

theorem exec_palFind (c : Word) (s : State) : exec (.palFind c) s = .next (countCommand (palFindEffect c s)) := rfl

theorem exec_palAdd_found {s : State} {c : Word} {j : Nat} (h : palLookup s.pal c = some j) :
    exec (.palAdd c) s = .next { s with result := BitVec.ofNat 32 j, cmdCount := s.cmdCount + 1 } := by
  rw [exec_palAdd, palAddEffect, h]
  rfl

theorem exec_palAdd_room {s : State} {c : Word} (hc : c ∉ s.pal) (hl : s.pal.length < 256) :
    exec (.palAdd c) s = .next { s with
      pal := s.pal ++ [c], result := BitVec.ofNat 32 s.pal.length, cmdCount := s.cmdCount + 1 } := by
  obtain ⟨j, hj, hjc, _⟩ | ⟨_, _, he⟩ | ⟨_, hfull, _⟩ := palAddEffect_cases c s
  · exact absurd (hjc ▸ List.getElem_mem hj) hc
  · rw [exec_palAdd, he]
    rfl
  · omega

theorem exec_palAdd_full {s : State} {c : Word} (hc : c ∉ s.pal) (hl : 256 ≤ s.pal.length) :
    exec (.palAdd c) s = .next { s with result := noIndex, cmdCount := s.cmdCount + 1 } := by
  obtain ⟨j, hj, hjc, _⟩ | ⟨_, hroom, _⟩ | ⟨_, _, he⟩ := palAddEffect_cases c s
  · exact absurd (hjc ▸ List.getElem_mem hj) hc
  · omega
  · rw [exec_palAdd, he]
    rfl

theorem exec_palFind_found {s : State} {c : Word} {j : Nat} (h : palLookup s.pal c = some j) :
    exec (.palFind c) s = .next { s with result := BitVec.ofNat 32 j, cmdCount := s.cmdCount + 1 } := by
  rw [exec_palFind, palFindEffect, h]
  rfl

theorem exec_palFind_absent {s : State} {c : Word} (hc : c ∉ s.pal) :
    exec (.palFind c) s = .next { s with result := noIndex, cmdCount := s.cmdCount + 1 } := by
  rw [exec_palFind, palFindEffect, palLookup_none.2 hc]
  rfl

/-! ### RESULT of one command, and of two in a row (rules R101 to R103) -/

/-- Settles O15: in a palette without duplicates lookup finds the colour's own index, and the other two cases are
`exec_palAdd_room` and `exec_palAdd_full`. -/
theorem palAddResult : Obligations.PalAddResult := fun _ _ =>
  ⟨fun _ hj hn hc => exec_palAdd_found (palLookup_of_nodup hj hn hc), exec_palAdd_room, exec_palAdd_full⟩

/-- Settles O16: as in O15 lookup finds the colour's own index, and an absent colour is `exec_palFind_absent`. -/
theorem palFindResult : Obligations.PalFindResult := fun _ _ =>
  ⟨fun _ hj hn hc => exec_palFind_found (palLookup_of_nodup hj hn hc), exec_palFind_absent⟩

/-- Settles O17: by what the first PAL_ADD finds. Lookup then finds the same index again, the index where the colour was
appended (`palLookup_append_new`), or again nothing on a full palette. -/
theorem palAddThenFindAgree : Obligations.PalAddThenFindAgree := by
  intro s c hl
  obtain ⟨j, hj, hjc, hfound, _⟩ | ⟨hc, hroom, _⟩ | ⟨hc, hfull, _⟩ := palAddEffect_cases c s
  · exact ⟨_, _, _, exec_palAdd_found hfound, exec_palFind_found hfound, exec_palAdd_found hfound, rfl, rfl, rfl,
      fun _ => getElem?_toNat_ofNat hl hj hjc, fun hc => absurd (hjc ▸ List.getElem_mem hj) hc⟩
  · have hfound := palLookup_append_new hc
    exact ⟨_, _, _, exec_palAdd_room hc hroom, exec_palFind_found hfound, exec_palAdd_found hfound, rfl, rfl, rfl,
      fun _ => getElem?_toNat_ofNat (by simpa using hroom) (by simp) (by simp), fun _ hfull => by omega⟩
  · exact ⟨_, _, _, exec_palAdd_full hc hfull, exec_palFind_absent hc, exec_palAdd_full hc hfull, rfl, rfl, rfl,
      fun h => absurd h (not_or.2 ⟨hc, by omega⟩), fun _ _ => ⟨rfl, rfl⟩⟩

end Sys2Proof.Machine

namespace Sys2Proof.Machine

/-! ## Compositing (rules R110, R111) -/

/-! ### Channels of a packed colour (rule R65) -/

@[simp] theorem redOf_pack (r g b a : Byte) : redOf (pack r g b a) = r :=
  BitVec.extractLsb'_append_eq_right

@[simp] theorem greenOf_pack (r g b a : Byte) : greenOf (pack r g b a) = g := by
  rw [greenOf, pack, BitVec.extractLsb'_append_eq_of_le (by decide), BitVec.extractLsb'_append_eq_right]

@[simp] theorem blueOf_pack (r g b a : Byte) : blueOf (pack r g b a) = b := by
  rw [blueOf, pack, BitVec.extractLsb'_append_eq_of_le (by decide), BitVec.extractLsb'_append_eq_of_le (by decide),
    BitVec.extractLsb'_append_eq_right]

@[simp] theorem alphaOf_pack (r g b a : Byte) : alphaOf (pack r g b a) = a := by
  rw [alphaOf, pack, BitVec.extractLsb'_append_eq_of_le (by decide), BitVec.extractLsb'_append_eq_of_le (by decide),
    BitVec.extractLsb'_append_eq_of_le (by decide)]
  exact BitVec.extractLsb'_eq_self

/-- A colour is its four channels. -/
@[simp] theorem pack_channels (c : Word) : pack (redOf c) (greenOf c) (blueOf c) (alphaOf c) = c := word_of_bytes c

/-! ### The formula of rule R110 -/

/-- A channel of the result, a rounded mean of two bytes with weights that sum to 255, fits in 8 bits. -/
theorem toNat_ofNat_blendChannel (sa s d : Byte) :
    (BitVec.ofNat 8 (blendChannel sa.toNat s.toNat d.toNat)).toNat = blendChannel sa.toNat s.toNat d.toNat := by
  have hsa : sa.toNat ≤ 255 := Nat.le_of_lt_succ sa.isLt
  have hs : s.toNat * sa.toNat ≤ 255 * sa.toNat := Nat.mul_le_mul_right _ (Nat.le_of_lt_succ s.isLt)
  have hd : d.toNat * (255 - sa.toNat) ≤ 255 * (255 - sa.toNat) := Nat.mul_le_mul_right _ (Nat.le_of_lt_succ d.isLt)
  simp only [BitVec.toNat_ofNat, blendChannel]
  omega

/-- The alpha of the result fits in 8 bits. -/
theorem toNat_ofNat_blendAlpha (sa da : Byte) :
    (BitVec.ofNat 8 (blendAlpha sa.toNat da.toNat)).toNat = blendAlpha sa.toNat da.toNat := by
  have hsa : sa.toNat ≤ 255 := Nat.le_of_lt_succ sa.isLt
  have hda : da.toNat * (255 - sa.toNat) ≤ 255 * (255 - sa.toNat) :=
    Nat.mul_le_mul_right _ (Nat.le_of_lt_succ da.isLt)
  simp only [BitVec.toNat_ofNat, blendAlpha]
  omega

/-- Settles O18: the channels of the packed result are the formulas, which fit in 8 bits. -/
theorem blendIsRoundedSourceOver : Obligations.BlendIsRoundedSourceOver := by
  intro src dst
  simp only [blend, redOf_pack, greenOf_pack, blueOf_pack, alphaOf_pack, toNat_ofNat_blendChannel,
    toNat_ofNat_blendAlpha]
  exact ⟨rfl, rfl, rfl, rfl⟩

/-! ### The fast paths of rule R111 -/

theorem blendChannel_transparent (s d : Nat) : blendChannel 0 s d = d := by
  simp only [blendChannel]
  omega

theorem blendChannel_opaque (s d : Nat) : blendChannel 255 s d = s := by
  simp only [blendChannel]
  omega

theorem blendAlpha_transparent (da : Nat) : blendAlpha 0 da = da := by
  simp only [blendAlpha]
  omega

theorem blendAlpha_opaque (da : Nat) : blendAlpha 255 da = 255 := by
  simp [blendAlpha]

theorem blend_transparent {src : Word} (h : alphaOf src = 0) (dst : Word) : blend src dst = dst := by
  simp [blend, h, blendChannel_transparent, blendAlpha_transparent]

theorem blend_opaque {src : Word} (h : alphaOf src = 255) (dst : Word) : blend src dst = src := by
  have hsrc := pack_channels src
  rw [h] at hsrc
  simpa [blend, h, blendChannel_opaque, blendAlpha_opaque] using hsrc

/-- Settles O19: the formula of rule R110 at the alphas 0 and 255. -/
theorem blendFastPaths : Obligations.BlendFastPaths := fun _ dst =>
  ⟨fun h => blend_transparent h dst, fun h => ⟨blend_opaque h dst, by rw [blend_opaque h, h]⟩⟩

/-! ## What a drawing command leaves (rules R112, R113) -/

/-! ### Commands whose checks pass -/

section

variable {i : Instr} {s : State} (h : Inv s) (hv : s.cfgValid = true)

include h hv

/-- A command that draws on the framebuffer draws what its loop leaves in each pixel, if the loop stays in its target. -/
theorem drawsFb_drawCommand {err : Option CommandError} {mode : DrawMode} {draw : Canvas → Memory → Memory}
    {f : Nat → Nat → Word → Word} (hi : exec i s = drawCommand (headerWord i) err mode draw s) (herr : err = none)
    (hpix : ∀ px py, px < (canvas s).width → py < (canvas s).height →
      readWord (draw (canvas s) s.mem) (wordGridAddr (canvas s).fbBase (canvas s).width px py) =
        f px py (readWord s.mem (wordGridAddr (canvas s).fbBase (canvas s).width px py)))
    (hout : SameOutside (canvas s).fbBase (4 * ((canvas s).width * (canvas s).height)) s.mem (draw (canvas s) s.mem)) :
    DrawsFb i s f :=
  ⟨countCommand (setMem s (draw (canvas s) s.mem)),
    by rw [hi, herr, drawCommand_none (targetInside_of_config (h.config hv) mode)], rfl, hpix, hout⟩

/-- The same of a command that draws on the index buffer. -/
theorem drawsIdx_drawCommand {err : Option CommandError} {draw : Canvas → Memory → Memory}
    {f : Nat → Nat → Byte → Byte} (hi : exec i s = drawCommand (headerWord i) err .index draw s) (herr : err = none)
    (hpix : ∀ px py, px < (canvas s).width → py < (canvas s).height →
      readByte (draw (canvas s) s.mem) (byteGridAddr (canvas s).idxBase (canvas s).width px py) =
        f px py (readByte s.mem (byteGridAddr (canvas s).idxBase (canvas s).width px py)))
    (hout : SameOutside (canvas s).idxBase ((canvas s).width * (canvas s).height) s.mem (draw (canvas s) s.mem)) :
    DrawsIdx i s f :=
  ⟨countCommand (setMem s (draw (canvas s) s.mem)),
    by rw [hi, herr, drawCommand_none (targetInside_of_config (h.config hv) .index)], rfl, hpix, hout⟩

/-! ### Commands that plot a list of pixels -/

variable {pixels : List (Int × Int)} {v : Word}

/-- A command that plots a list of pixels in replace mode sets the listed framebuffer pixels. -/
theorem drawsFb_replace (hi : exec i s = plotCommand i .replace pixels v s) :
    DrawsFb i s fun px py old => if ((px : Int), (py : Int)) ∈ pixels then v else old := by
  exact drawsFb_drawCommand h hv hi (rasterError_none.2 ⟨hv, nofun⟩)
    (fun _ _ hx hy => readWord_plotAll_replace hx hy pixels h.mem.canonical)
    (fun _ ha => readByte_plotAll_outside (mode := .replace) ha pixels s.mem)

/-- A command that plots a list of pixels in index mode sets the listed pixels of the index buffer. -/
theorem drawsIdx_index (hi : exec i s = plotCommand i .index pixels v s) (hres : indexReserved v = 0) :
    DrawsIdx i s fun px py old => if ((px : Int), (py : Int)) ∈ pixels then indexOf v else old := by
  exact drawsIdx_drawCommand h hv hi (rasterError_none.2 ⟨hv, fun _ => hres⟩)
    (fun _ _ hx hy => readByte_plotAll_index hx hy pixels h.mem.canonical)
    (fun _ ha => readByte_plotAll_outside (mode := .index) ha pixels s.mem)

/-- A command that blends a list of pixels without repetition blends each of them once. -/
theorem drawsFb_blend_nodup (hi : exec i s = plotCommand i .blend pixels v s) (hnd : pixels.Nodup) :
    DrawsFb i s fun px py old => if ((px : Int), (py : Int)) ∈ pixels then blend v old else old := by
  have draws := drawsFb_blend hi h hv
  simp only [hnd.count, apply_ite (fun n => (blend v)^[n]), ite_apply, Function.iterate_one,
    Function.iterate_zero_apply] at draws
  exact draws

end

/-! ### PIXEL and CLEAR (rules R114, R116) -/

theorem mem_single_pixel {x y : Int} {px py : Nat} : ((px : Int), (py : Int)) ∈ [(x, y)] ↔ x = px ∧ y = py := by
  rw [List.mem_singleton, Prod.mk.injEq, eq_comm, eq_comm (a := (py : Int))]

/-- Settles O20: the three commands plot a list of one pixel. -/
theorem pixelCommandsWriteOnePixel : Obligations.PixelCommandsWriteOnePixel := by
  intro s x y v h hv
  have replaces := drawsFb_replace (i := .pixel x y v) h hv (pixels := [(x, y)]) rfl
  have blends := drawsFb_blend_nodup (i := .pixelB x y v) h hv (pixels := [(x, y)]) rfl (List.nodup_singleton _)
  have indexes := drawsIdx_index (i := .pixelI x y v) h hv (pixels := [(x, y)]) rfl
  simp only [mem_single_pixel] at replaces blends indexes
  exact ⟨replaces, blends, indexes⟩

/-- Settles O21: the loop of CLEAR visits every word of the framebuffer, that of CLEAR.I every byte of the index buffer. -/
theorem clearCommandsFillTheirTarget : Obligations.ClearCommandsFillTheirTarget := by
  intro s v h hv
  have hm := h.mem.canonical
  refine ⟨?_, fun hres => ?_⟩
  · exact drawsFb_drawCommand h hv (mode := .replace) (draw := clearMem .replace v) rfl
      (rasterError_none.2 ⟨hv, nofun⟩) (fun _ _ hx hy => readWord_clearMem hm hx hy)
      (fun _ ha => readByte_clearMem_outside (mode := .replace) hm ha)
  · exact drawsIdx_drawCommand h hv (draw := clearMem .index v) rfl
      (rasterError_none.2 ⟨hv, fun _ => hres⟩) (fun _ _ hx hy => readByte_clearMem hm hx hy)
      (fun _ ha => readByte_clearMem_outside (mode := .index) hm ha)

/-! ### FILL and RECT (rules R123 to R126) -/

/-- The pixels of a rectangle are listed row by row. -/
theorem mem_fillPixels {x y w h : Int} {px py : Nat} :
    ((px : Int), (py : Int)) ∈ fillPixels x y w h ↔ InRect x y w h px py := by
  simp only [fillPixels, List.mem_map, Prod.mk.injEq]
  constructor
  · rintro ⟨⟨c, r⟩, hp, hx, hy⟩
    obtain ⟨hc, hr⟩ := mem_grid.1 hp
    dsimp only at hx hy
    omega
  · intro hin
    refine ⟨((px - x).toNat, (py - y).toNat), mem_grid.2 ⟨by omega, by omega⟩, ?_, ?_⟩ <;> dsimp only <;> omega

/-- A rectangle lists no pixel twice. -/
theorem fillPixels_nodup (x y w h : Int) : (fillPixels x y w h).Nodup := by
  refine (grid_nodup _ _).map fun p q hpq => ?_
  simp only [Prod.mk.injEq] at hpq
  exact Prod.ext (by omega) (by omega)

/-- Settles O30: `mem_fillPixels` says which pixels FILL and FILL.I list. -/
theorem fillWritesTheRectangle : Obligations.FillWritesTheRectangle := by
  intro s x y w h v hinv hv
  have replaces := drawsFb_replace (i := .fill x y w h v) hinv hv (pixels := fillPixels x y w h) rfl
  have indexes := drawsIdx_index (i := .fillI x y w h v) hinv hv (pixels := fillPixels x y w h) rfl
  simp only [mem_fillPixels] at replaces indexes
  exact ⟨replaces, indexes⟩

/-- Settles O31: FILL.B lists the pixels of `mem_fillPixels`, each once. -/
theorem fillBlendsEachPixelOnce : Obligations.FillBlendsEachPixelOnce := by
  intro s x y w h v hinv hv
  have blends := drawsFb_blend_nodup (i := .fillB x y w h v) hinv hv rfl (fillPixels_nodup x y w h)
  simp only [mem_fillPixels] at blends
  exact blends

/-- The outline lists the pixels of the rectangle that lie on a boundary line. -/
theorem mem_outlinePixels {x y w h : Int} {px py : Nat} :
    ((px : Int), (py : Int)) ∈ outlinePixels x y w h ↔ InRect x y w h px py ∧ 0 < outlineCount x y w h px py := by
  rw [← List.count_pos_iff, count_outlinePixels]
  split_ifs with hin
  · exact (and_iff_right hin).symm
  · exact iff_of_false (Nat.lt_irrefl 0) fun hc => hin hc.1

/-- Settles O28: `mem_outlinePixels` says which pixels RECT and RECT.I list. -/
theorem rectWritesTheBoundary : Obligations.RectWritesTheBoundary := by
  intro s x y w h v hinv hv
  have replaces := drawsFb_replace (i := .rect x y w h v) hinv hv (pixels := outlinePixels x y w h) rfl
  have indexes := drawsIdx_index (i := .rectI x y w h v) hinv hv (pixels := outlinePixels x y w h) rfl
  simp only [mem_outlinePixels] at replaces indexes
  exact ⟨replaces, indexes⟩

end Sys2Proof.Machine

namespace Sys2Proof.Machine

/-! ## The target and the checks of a drawing command (rules R113, R127, R165, R166) -/

/-! ### Only the target is written (rule R127) -/

/-- A raster primitive plots its list of pixels. -/
theorem exec_rasterPixels {i : Instr} {mode : DrawMode} {pixels : List (Int × Int)}
    (hi : rasterPixels i = some (mode, pixels)) (s : State) : ∃ v, exec i s = plotCommand i mode pixels v s := by
  cases i with
  | nop | init | signal | signalIrq | palAdd | palFind | clear | clearI | convert | upscale | blit | blitB | light
  | lightB => exact nomatch hi
  | pixel | pixelB | pixelI | line | lineB | lineI | linep | linepB | linepI | rect | rectB | rectI
  | fill | fillB | fillI => cases hi; exact ⟨_, rfl⟩

/-- A drawing command that answers a next state leaves pixel memory as it is, or as its loop left it. -/
theorem drawCommand_mem {hdr : Word} {err : Option CommandError} {mode : DrawMode} {draw : Canvas → Memory → Memory}
    {s t : State} (ht : drawCommand hdr err mode draw s = .next t) : t.mem = s.mem ∨ t.mem = draw (canvas s) s.mem := by
  obtain ⟨e, -, he⟩ | ⟨-, -, he⟩ | ⟨-, -, he⟩ := drawCommand_cases hdr err mode draw s <;>
    rw [ht] at he <;> cases he
  · exact .inl rfl
  · exact .inr rfl

theorem sameOutside_of_eq {b n : Nat} {m m' : Memory} (h : m' = m) : SameOutside b n m m' := fun _ _ => by rw [h]

/-- A clear that answers a next state writes no byte outside its mode's target buffer. -/
theorem sameOutside_of_clearMem {hdr : Word} {err : Option CommandError} {mode : DrawMode} {v : Word} {s t : State}
    (hm : Memory.wf s.mem = true) (ht : drawCommand hdr err mode (clearMem mode v) s = .next t) :
    SameOutside (targetRegion mode (canvas s)).1 (targetRegion mode (canvas s)).2 s.mem t.mem := by
  obtain hmem | hmem := drawCommand_mem ht
  · exact sameOutside_of_eq hmem
  · exact fun a ha => by rw [hmem, readByte_clearMem_outside hm ha]

/-- Settles O32: a raster primitive leaves pixel memory, or its loop of plots on it, none of which leaves the target. -/
theorem rasterWritesOnlyItsTarget : Obligations.RasterWritesOnlyItsTarget := by
  intro i s t hm ht
  refine ⟨fun mode pixels hi => ?_, fun v hi => ?_, fun v hi => ?_⟩
  · obtain ⟨v, hexec⟩ := exec_rasterPixels hi s
    obtain hmem | hmem := drawCommand_mem (hexec.symm.trans ht)
    · exact ⟨sameOutside_of_eq hmem, fun _ => hmem⟩
    · exact ⟨fun a ha => by rw [hmem, readByte_plotAll_outside ha], fun hoff => by rw [hmem, plotAll_clipped _ hoff]⟩
  · subst hi
    exact sameOutside_of_clearMem (mode := .replace) hm ht
  · subst hi
    exact sameOutside_of_clearMem (mode := .index) hm ht

/-! ### The errors of the checks (rules R113, R165, R200) -/

/-- A drawing command whose checks find an error raises it. -/
theorem raises_of_drawCommand {i : Instr} {s : State} {err : Option CommandError} {mode : DrawMode}
    {draw : Canvas → Memory → Memory} {e : CommandError} (he : err = some e)
    (hexec : exec i s = drawCommand (headerWord i) err mode draw s) : Raises i s (errorCode e) := by
  rw [Raises, hexec, he, drawCommand_some]
  rfl

theorem raises_of_plotCommand {i : Instr} {s : State} {mode : DrawMode} {v : Word} {pixels : List (Int × Int)}
    {e : CommandError} (he : rasterError mode v s = some e) (hexec : exec i s = plotCommand i mode pixels v s) :
    Raises i s (errorCode e) := raises_of_drawCommand he hexec

theorem rasterError_unconfigured {mode : DrawMode} {v : Word} {s : State} (h : s.cfgValid = false) :
    rasterError mode v s = some .notInit := by simp [rasterError, h]

theorem blitError_unconfigured {sb sw sh : Nat} {s : State} (h : s.cfgValid = false) :
    blitError sb sw sh s = some .notInit := by simp [blitError, h]

theorem lightError_unconfigured {sb sw sh : Nat} {ie am : Word} {s : State} (h : s.cfgValid = false) :
    lightError sb sw sh ie am s = some .notInit := by simp [lightError, h]

theorem rasterError_reserved {v : Word} {s : State} (h : s.cfgValid = true) (hres : indexReserved v ≠ 0) :
    rasterError .index v s = some .badOperand := by
  simp only [rasterError, h, Bool.not_true, Bool.false_eq_true, if_false]
  exact if_pos ⟨trivial, hres⟩

theorem lightError_reserved {sb sw sh : Nat} {ie am : Word} {s : State} (h : s.cfgValid = true)
    (hres : enableReserved ie ≠ 0 ∨ ambientReserved am ≠ 0) : lightError sb sw sh ie am s = some .badOperand := by
  simp only [lightError, h, Bool.not_true, Bool.false_eq_true, if_false]
  exact if_pos hres

/-- Without a configuration the first check of every command that needs one raises NOT_INIT. -/
theorem raises_notInit {i : Instr} {s : State} (hi : needsConfig i = true) (hv : s.cfgValid = false) :
    Raises i s 0x08 := by
  cases i with
  | nop | init | signal | signalIrq | palAdd | palFind | convert | upscale => exact nomatch hi
  | clear | clearI => exact raises_of_drawCommand (rasterError_unconfigured hv) rfl
  | pixel | pixelB | pixelI | line | lineB | lineI | linep | linepB | linepI | rect | rectB | rectI
  | fill | fillB | fillI => exact raises_of_plotCommand (rasterError_unconfigured hv) rfl
  | blit | blitB => exact raises_of_drawCommand (blitError_unconfigured hv) rfl
  | light | lightB => exact raises_of_drawCommand (lightError_unconfigured hv) rfl

/-- With a configuration an index value above 255 raises BAD_OPERAND. -/
theorem raises_badOperand_index {i : Instr} {s : State} {v : Word} (hi : indexValue i = some v)
    (hv : s.cfgValid = true) (hres : indexReserved v ≠ 0) : Raises i s 0x0C := by
  have herr := rasterError_reserved hv hres
  cases i with
  | nop | init | signal | signalIrq | palAdd | palFind | convert | upscale | clear | pixel | pixelB | line | lineB
  | linep | linepB | rect | rectB | fill | fillB | blit | blitB | light | lightB => exact nomatch hi
  | clearI => cases hi; exact raises_of_drawCommand herr rfl
  | pixelI | lineI | linepI | rectI | fillI => cases hi; exact raises_of_plotCommand herr rfl

/-- Settles O33: NOT_INIT is the first check of every such command; with a configuration the reserved operand bits are the
next. -/
theorem drawsCheckConfigThenOperands : Obligations.DrawsCheckConfigThenOperands := by
  refine fun i s => ⟨raises_notInit, fun _ => raises_badOperand_index,
    fun x y sb sw sh lx ly c r ie am hi hv hres => ?_⟩
  obtain rfl | rfl := hi <;> exact raises_of_drawCommand (lightError_reserved hv hres) rfl

/-! ## Sprites (rules R160, R165, R166) -/

/-- A sprite that passes its checks raises none of their errors. -/
theorem SpriteOk.spriteError_none {s : State} {sb sw sh : Nat} (h : SpriteOk s sb sw sh) :
    spriteError sb sw sh s = none := by
  obtain ⟨halign, hregion⟩ := h
  have hbytes : 4 * sw * sh = 4 * (sw * sh) := Nat.mul_assoc ..
  have hfb : 4 * s.cfgWidth.toNat * s.cfgHeight.toNat = fbBytes s := Nat.mul_assoc ..
  rw [Machine.spriteError_none, wordAligned_iff, regionInside_iff, regionsOverlap_false, hfb]
  refine ⟨halign, ?_, ?_⟩ <;> omega

/-- A sprite command whose checks pass composes over each framebuffer pixel under the sprite the shade of the sprite pixel
there, and leaves the pixel where the shade is none. -/
theorem drawsFb_sprite {i : Instr} {s : State} {err : Option CommandError} {mode : DrawMode} {x y : Int}
    {sb sw sh : Nat} {shade : Int → Int → Word → Option Word} (h : Inv s) (hv : s.cfgValid = true)
    (hs : SpriteOk s sb sw sh) (hmode : mode ≠ .index) (herr : err = none)
    (hi : exec i s = drawCommand (headerWord i) err mode (drawSprite mode x y sb sw sh shade) s) :
    DrawsFb i s fun px py old =>
      if InRect x y sw sh px py then
        (shade px py (spritePixel s sb sw (px - x).toNat (py - y).toNat)).elim old
          fun c => if mode = .blend then blend c old else c
      else old := by
  obtain ⟨-, -, hsep⟩ := spriteError_none.1 hs.spriteError_none
  refine drawsFb_drawCommand h hv hi herr (fun px py hx hy => ?_) fun a ha => ?_
  · rw [readWord_drawSprite hmode h.mem.canonical hsep hx hy, spritePixel, ← wordGridAddr]
    cases shade px py _ <;> rfl
  · refine readByte_drawSprite_outside _ ?_
    cases mode with
    | replace | blend => exact ha
    | index => exact absurd rfl hmode

/-- Settles O41: the shade of BLIT is the sprite pixel itself. -/
theorem blitPlacesTheSprite : Obligations.BlitPlacesTheSprite := by
  intro s x y sb sw sh h hv hs
  have herr := blitError_none.2 ⟨hv, hs.spriteError_none⟩
  exact ⟨drawsFb_sprite (i := .blit x y sb sw sh) (mode := .replace) h hv hs nofun herr rfl,
    drawsFb_sprite (i := .blitB x y sb sw sh) (mode := .blend) h hv hs nofun herr rfl⟩

/-- The pixel that LIGHT makes of a sprite pixel that is not fully transparent (rule R166). -/
def litPixel (lp : LightParams) (px py : Int) (c : Word) : Word :=
  pack (BitVec.ofInt 8 (shadeChannel lp (lightDist2 lp px py) (redOf c).toNat (redOf lp.color).toNat))
    (BitVec.ofInt 8 (shadeChannel lp (lightDist2 lp px py) (greenOf c).toNat (greenOf lp.color).toNat))
    (BitVec.ofInt 8 (shadeChannel lp (lightDist2 lp px py) (blueOf c).toNat (blueOf lp.color).toNat)) (alphaOf c)

theorem lightShade_transparent (lp : LightParams) (px py : Int) {c : Word} (hc : alphaOf c = 0) :
    lightShade lp px py c = none := if_pos hc

theorem lightShade_visible (lp : LightParams) (px py : Int) {c : Word} (hc : alphaOf c ≠ 0) :
    lightShade lp px py c = some (litPixel lp px py c) := if_neg hc

/-- What the shade of LIGHT composes over a pixel. -/
theorem lightShade_elim (lp : LightParams) (px py : Int) (c old : Word) (compose : Word → Word) :
    (lightShade lp px py c).elim old compose = if alphaOf c ≠ 0 then compose (litPixel lp px py c) else old := by
  by_cases hc : alphaOf c = 0
  · rw [lightShade_transparent lp px py hc, if_neg (not_not.2 hc), Option.elim_none]
  · rw [lightShade_visible lp px py hc, if_pos hc, Option.elim_some]

/-- Settles O42: the shade of LIGHT is the lit pixel, and none for a sprite pixel of alpha 0. -/
theorem lightShadesTheSprite : Obligations.LightShadesTheSprite := by
  intro s x y sb sw sh lx ly color range ie am h hv hs hie ham
  have herr := lightError_none.2 ⟨hv, ⟨hie, ham⟩, hs.spriteError_none⟩
  have replaces := drawsFb_sprite (i := .light x y sb sw sh lx ly color range ie am) (mode := .replace)
    h hv hs nofun herr rfl
  have blends := drawsFb_sprite (i := .lightB x y sb sw sh lx ly color range ie am) (mode := .blend)
    h hv hs nofun herr rfl
  simp only [lightShade_elim, ← ite_and, if_true, reduceCtorEq, if_false] at replaces blends
  exact ⟨replaces, blends⟩

end Sys2Proof.Machine

namespace Sys2Proof.Machine

/-! ## Lines (rules R117 to R122) -/

/-! ### Lists that walk along two axes -/

/-- The pixels at the times 0 to `n` of a walk with the coordinates `p` and `q`. -/
def walk (n : Nat) (p q : Nat → Int) : List (Int × Int) := (List.range (n + 1)).map fun k => (p k, q k)

section

variable {n : Nat} {p q : Nat → Int}

@[simp] theorem walk_length : (walk n p q).length = n + 1 := by simp [walk]

@[simp] theorem walk_getElem {k : Nat} (hk : k < (walk n p q).length) : (walk n p q)[k] = (p k, q k) := by
  simp [walk]

@[simp] theorem walk_head : (walk n p q).head? = some (p 0, q 0) := by simp [walk, List.head?_range]

@[simp] theorem walk_getLast : (walk n p q).getLast? = some (p n, q n) := by simp [walk, List.getLast?_range]

/-- Exchanging the axes mirrors the walk. -/
theorem walk_swap : (walk n p q).map Prod.swap = walk n q p := by simp [walk]

/-- A walk repeats no pixel if on one of its axes the distance from some coordinate is the time. -/
theorem walk_nodup {a b : Int} (h : (∀ k ≤ n, (p k - a).natAbs = k) ∨ ∀ k ≤ n, (q k - b).natAbs = k) :
    (walk n p q).Nodup := by
  refine List.Nodup.map_on (fun j hj k hk hjk => ?_) List.nodup_range
  obtain ⟨hp, hq⟩ := Prod.mk.inj hjk
  have hj := Nat.le_of_lt_succ (List.mem_range.1 hj)
  have hk := Nat.le_of_lt_succ (List.mem_range.1 hk)
  obtain h | h := h
  · rw [← h j hj, ← h k hk, hp]
  · rw [← h j hj, ← h k hk, hq]

end

/-! ### The parametric list (rules R120, R121) -/

/-- Coordinate `t` of the `n` samples from `a` to `b`, rounded to nearest with ties up. -/
def sampleAxis (n : Nat) (a b : Int) (t : Nat) : Int := a + (2 * t * (b - a) + n) / (2 * n)

theorem paramPixels_eq_walk {x0 y0 x1 y1 : Int} {n : Nat} (hn : max (x1 - x0).natAbs (y1 - y0).natAbs = n) :
    paramPixels x0 y0 x1 y1 = walk n (sampleAxis n x0 x1) (sampleAxis n y0 y1) := by
  simp only [paramPixels, hn]
  split_ifs with h0
  · simp [h0, walk, sampleAxis]
  · simp [walk, sampleAxis, ← List.map_eq_flatMap, Function.comp_def]

section

variable {n : Nat} {a b : Int}

theorem sampleAxis_bounds (hn : 0 < n) (t : Nat) :
    2 * n * (sampleAxis n a b t - a) ≤ 2 * t * (b - a) + n ∧
      2 * t * (b - a) + n < 2 * n * (sampleAxis n a b t - a) + 2 * n := by
  rw [sampleAxis, add_sub_cancel_left]
  exact ⟨Int.mul_ediv_self_le (by omega), Int.lt_mul_ediv_self_add (by omega)⟩

theorem sampleAxis_zero : sampleAxis n a b 0 = a := by
  obtain rfl | hn := Nat.eq_zero_or_pos n
  · simp [sampleAxis]
  · rw [sampleAxis, Nat.cast_zero, mul_zero, zero_mul, zero_add, Int.ediv_eq_zero_of_lt (by omega) (by omega), add_zero]

theorem sampleAxis_last (h : (b - a).natAbs ≤ n) : sampleAxis n a b n = b := by
  obtain rfl | hn := Nat.eq_zero_or_pos n
  · simp only [sampleAxis, Nat.cast_zero, mul_zero, Int.ediv_zero]
    omega
  · rw [sampleAxis, add_comm (2 * (n : Int) * (b - a)), Int.add_mul_ediv_left _ _ (by omega),
      Int.ediv_eq_zero_of_lt (by omega) (by omega)]
    omega

/-- A step of the walk moves a coordinate by at most 1. -/
theorem sampleAxis_step (h : (b - a).natAbs ≤ n) (hn : 0 < n) (t : Nat) :
    (sampleAxis n a b (t + 1) - sampleAxis n a b t).natAbs ≤ 1 := by
  obtain ⟨hlo, hhi⟩ := sampleAxis_bounds (a := a) (b := b) hn t
  obtain ⟨hlo', hhi'⟩ := sampleAxis_bounds (a := a) (b := b) hn (t + 1)
  push_cast at hlo' hhi'
  have hup : (n : Int) * (sampleAxis n a b (t + 1) - sampleAxis n a b t) < n * 2 := by
    have : b - a ≤ n := by omega
    linarith
  have hdown : (n : Int) * -2 < n * (sampleAxis n a b (t + 1) - sampleAxis n a b t) := by
    have : -n ≤ b - a := by omega
    linarith
  have := Int.lt_of_mul_lt_mul_left hup (by omega)
  have := Int.lt_of_mul_lt_mul_left hdown (by omega)
  omega

/-- Along an axis of the largest distance the samples go from `a` to `b` one by one. -/
theorem sampleAxis_major (h : (b - a).natAbs = n) {t : Nat} (ht : t ≤ n) : (sampleAxis n a b t - a).natAbs = t := by
  obtain rfl | hn := Nat.eq_zero_or_pos n
  · rw [Nat.le_zero.1 ht, sampleAxis_zero, sub_self, Int.natAbs_zero]
  · have hsum : 2 * t * (b - a) + n = n + 2 * n * (t * (b - a).sign) := by
      have hsign : (b - a).sign * n = b - a := by rw [← h, Int.sign_mul_natAbs]
      linear_combination -(2 * (t : Int)) * hsign
    rw [sampleAxis, hsum, Int.add_mul_ediv_left _ _ (by omega), Int.ediv_eq_zero_of_lt (by omega) (by omega),
      zero_add, add_sub_cancel_left, Int.natAbs_mul, Int.natAbs_sign_of_ne_zero (by omega), mul_one, Int.natAbs_natCast]

theorem sampleAxis_step_major (h : (b - a).natAbs = n) {t : Nat} (ht : t < n) :
    (sampleAxis n a b (t + 1) - sampleAxis n a b t).natAbs = 1 := by
  have hstep := sampleAxis_step h.le (by omega) t
  have hnear := sampleAxis_major h ht.le
  have hfar := sampleAxis_major h (t := t + 1) ht
  omega

end

/-- Settles O23: the list is the walk whose coordinates are the samples of each axis. -/
theorem paramPixelsSampleTheLine : Obligations.ParamPixelsSampleTheLine := by
  intro x0 y0 x1 y1
  generalize hn : max (x1 - x0).natAbs (y1 - y0).natAbs = n
  have hx : (x1 - x0).natAbs ≤ n := hn ▸ le_max_left ..
  have hy : (y1 - y0).natAbs ≤ n := hn ▸ le_max_right ..
  have hmajor : (x1 - x0).natAbs = n ∨ (y1 - y0).natAbs = n := by omega
  simp only [paramPixels_eq_walk hn, walk_length, walk_head, walk_getLast, walk_getElem, sampleAxis_zero,
    sampleAxis_last hx, sampleAxis_last hy, true_and]
  refine ⟨walk_nodup (hmajor.imp (fun h _ => sampleAxis_major h) fun h _ => sampleAxis_major h),
    fun t _ hpos => ⟨sampleAxis_bounds hpos t, sampleAxis_bounds hpos t⟩, fun t ht => ⟨?_, ?_, fun h => ?_, fun h => ?_⟩⟩
  · exact sampleAxis_step hx (by omega) t
  · exact sampleAxis_step hy (by omega) t
  · exact sampleAxis_step_major h (by omega)
  · exact sampleAxis_step_major h (by omega)

/-! ### The Bresenham list (rule R117) -/

/-- The integer nearest to `k * d / n`, the smaller one on a tie. -/
def nearestMultiple (n d k : Nat) : Nat := (2 * k * d + n - 1) / (2 * n)

theorem nearestMultiple_bounds {n : Nat} (hn : 0 < n) (d k : Nat) :
    2 * k * d ≤ 2 * n * nearestMultiple n d k + n ∧ 2 * n * nearestMultiple n d k < 2 * k * d + n := by
  have hlo := Nat.mul_div_le (2 * k * d + n - 1) (2 * n)
  have hhi := Nat.lt_mul_div_succ (2 * k * d + n - 1) (b := 2 * n) (by omega)
  rw [← nearestMultiple] at hlo hhi
  rw [mul_add_one] at hhi
  omega

theorem nearestMultiple_eq {n d k c : Nat} (hlo : 2 * k * d ≤ 2 * n * c + n) (hhi : 2 * n * c < 2 * k * d + n) :
    nearestMultiple n d k = c := by
  have hcomm : c * (2 * n) = 2 * n * c := mul_comm ..
  refine Nat.div_eq_of_lt_le ?_ ?_
  · omega
  · rw [add_one_mul]
    omega

theorem nearestMultiple_zero (n d : Nat) : nearestMultiple n d 0 = 0 := by
  obtain rfl | hn := Nat.eq_zero_or_pos n
  · simp [nearestMultiple]
  · exact nearestMultiple_eq (by omega) (by omega)

theorem nearestMultiple_self {n : Nat} (hn : 0 < n) (d : Nat) : nearestMultiple n d n = d :=
  nearestMultiple_eq (by omega) (by omega)

theorem nearestMultiple_major {n : Nat} (hn : 0 < n) (k : Nat) : nearestMultiple n n k = k := by
  have hcomm : 2 * n * k = 2 * k * n := by ring
  exact nearestMultiple_eq (by omega) (by omega)

/-- The strict comparison of the rule's loop chooses the next nearest integer. -/
theorem nearestMultiple_succ {n d : Nat} (hn : 0 < n) (hd : d ≤ n) (k : Nat) :
    nearestMultiple n d (k + 1) =
      nearestMultiple n d k + if 2 * n * nearestMultiple n d k + n < 2 * (k + 1) * d then 1 else 0 := by
  obtain ⟨hlo, hhi⟩ := nearestMultiple_bounds hn d k
  have hnext : 2 * (k + 1) * d = 2 * k * d + 2 * d := by ring
  by_cases hstep : 2 * n * nearestMultiple n d k + n < 2 * (k + 1) * d
  · have hup := mul_add_one (2 * n) (nearestMultiple n d k)
    rw [if_pos hstep]
    exact nearestMultiple_eq (by omega) (by omega)
  · rw [if_neg hstep, add_zero]
    exact nearestMultiple_eq (by omega) (by omega)

/-! ### One axis of the walk -/

/-- The direction in which the loop of rule R117 steps. -/
def stepToward (a b : Int) : Int := if a < b then 1 else -1

theorem stepToward_cases (a b : Int) : stepToward a b = 1 ∨ stepToward a b = -1 := by
  unfold stepToward
  split_ifs
  · exact .inl rfl
  · exact .inr rfl

theorem add_stepToward (a b : Int) : a + stepToward a b * (b - a).natAbs = b := by
  unfold stepToward
  split_ifs <;> omega

/-- Coordinate `k` of a line of `n` steps from `a` to `b`. -/
def lineAxis (n : Nat) (a b : Int) (k : Nat) : Int := a + stepToward a b * nearestMultiple n (b - a).natAbs k

section

variable {n : Nat} {a b : Int}

theorem natAbs_lineAxis (k : Nat) : (lineAxis n a b k - a).natAbs = nearestMultiple n (b - a).natAbs k := by
  unfold lineAxis
  obtain h | h := stepToward_cases a b <;> rw [h] <;> omega

theorem lineAxis_zero : lineAxis n a b 0 = a := by simp [lineAxis, nearestMultiple_zero]

theorem lineAxis_last (h : (b - a).natAbs ≤ n) : lineAxis n a b n = b := by
  obtain rfl | hn := Nat.eq_zero_or_pos n
  · rw [lineAxis_zero]
    omega
  · rw [lineAxis, nearestMultiple_self hn, add_stepToward]

theorem lineAxis_major (h : (b - a).natAbs = n) {k : Nat} (hk : k ≤ n) : (lineAxis n a b k - a).natAbs = k := by
  rw [natAbs_lineAxis, h]
  obtain rfl | hn := Nat.eq_zero_or_pos n
  · rw [Nat.le_zero.1 hk, nearestMultiple_zero]
  · exact nearestMultiple_major hn k

theorem lineAxis_succ_ne (h : (b - a).natAbs = n) {k : Nat} (hk : k < n) :
    lineAxis n a b (k + 1) ≠ lineAxis n a b k := by
  intro heq
  have hfar := lineAxis_major h hk
  rw [heq, lineAxis_major h hk.le] at hfar
  omega

/-- A step stays, or moves by 1 toward the far endpoint. -/
theorem lineAxis_step (h : (b - a).natAbs ≤ n) (hn : 0 < n) (k : Nat) :
    (lineAxis n a b (k + 1) - lineAxis n a b k).natAbs ≤ 1 ∧
      (a ≤ b → lineAxis n a b k ≤ lineAxis n a b (k + 1)) ∧ (b ≤ a → lineAxis n a b (k + 1) ≤ lineAxis n a b k) := by
  rw [lineAxis, lineAxis, nearestMultiple_succ hn h]
  split_ifs with hstep
  · have hne : a ≠ b := by
      rintro rfl
      simp at hstep
    rw [stepToward]
    split_ifs <;> omega
  · simp

end

/-! ### The loop along its major axis -/

/-- The error accumulator of the loop before its step from pixel `k`, when x is the major axis. -/
def lineError (dx dy k : Nat) : Int := dx - (k + 1) * dy + dx * nearestMultiple dx dy k

section

variable {dx dy : Nat}

/-- The loop steps along the other axis where the nearest integer moves on. -/
theorem lineError_lt_iff (k : Nat) :
    2 * lineError dx dy k < dx ↔ 2 * dx * nearestMultiple dx dy k + dx < 2 * (k + 1) * dy := by
  zify
  rw [lineError]
  constructor <;> intro h <;> linarith

variable (hd : dy ≤ dx) (hpos : 0 < dx)

include hd hpos

/-- The loop steps along its major axis every time. -/
theorem lineError_gt (k : Nat) : 2 * lineError dx dy k > -dy := by
  obtain rfl | hlt := hd.eq_or_lt
  · rw [lineError, nearestMultiple_major hpos]
    linarith
  · have hlo := (nearestMultiple_bounds hpos dy k).1
    zify at hlo hlt
    rw [lineError]
    linarith

theorem lineError_succ (k : Nat) :
    lineError dx dy (k + 1) = lineError dx dy k + -dy + if 2 * lineError dx dy k < dx then (dx : Int) else 0 := by
  simp only [lineError_lt_iff]
  rw [lineError, lineError, nearestMultiple_succ hpos hd]
  split_ifs <;> push_cast <;> ring

/-- Before the far endpoint the loop goes on to the next pixel. -/
theorem bresenhamFrom_succ {k : Nat} (hk : k < dx) {sx : Int} (hsx : sx = 1 ∨ sx = -1) (x0 y0 y1 sy : Int)
    (fuel : Nat) :
    bresenhamFrom dx dy sx sy (x0 + sx * dx) y1 (fuel + 1) (x0 + sx * k) (y0 + sy * nearestMultiple dx dy k)
        (lineError dx dy k) =
      (x0 + sx * k, y0 + sy * nearestMultiple dx dy k) ::
        bresenhamFrom dx dy sx sy (x0 + sx * dx) y1 fuel (x0 + sx * (k + 1 : Nat))
          (y0 + sy * nearestMultiple dx dy (k + 1)) (lineError dx dy (k + 1)) := by
  have hne : x0 + sx * k ≠ x0 + sx * dx := by obtain rfl | rfl := hsx <;> omega
  have hx : x0 + sx * (k + 1 : Nat) = x0 + sx * k + sx := by push_cast; ring
  have hy : y0 + sy * nearestMultiple dx dy (k + 1) =
      if 2 * lineError dx dy k < dx then y0 + sy * nearestMultiple dx dy k + sy
      else y0 + sy * nearestMultiple dx dy k := by
    simp only [lineError_lt_iff]
    rw [nearestMultiple_succ hpos hd]
    split_ifs <;> push_cast <;> ring
  rw [bresenhamFrom, if_neg (fun h => hne h.1), hx, hy, lineError_succ hd hpos]
  simp only [lineError_gt hd hpos, decide_true, if_true, decide_eq_true_eq]

/-- From `m` pixels before its end the loop lists the rest of the line. -/
theorem bresenhamFrom_eq_map {sx : Int} (hsx : sx = 1 ∨ sx = -1) (x0 y0 sy : Int) (m : Nat) : ∀ k, k + m = dx →
    bresenhamFrom dx dy sx sy (x0 + sx * dx) (y0 + sy * dy) (m + 1) (x0 + sx * k)
        (y0 + sy * nearestMultiple dx dy k) (lineError dx dy k) =
      (List.range' k (m + 1)).map fun j : Nat => (x0 + sx * j, y0 + sy * nearestMultiple dx dy j) := by
  induction m with
  | zero =>
      intro k hk
      obtain rfl : k = dx := hk
      rw [nearestMultiple_self hpos, bresenhamFrom_end]
      simp [nearestMultiple_self hpos]
  | succ m ih =>
      intro k hk
      rw [bresenhamFrom_succ hd hpos (by omega) hsx, ih (k + 1) (by omega), List.range'_succ (s := k), List.map_cons]

end

/-- With x as its major axis the loop walks along both axes. -/
theorem bresenhamPixels_eq_walk_of_le {x0 y0 x1 y1 : Int} (hd : (y1 - y0).natAbs ≤ (x1 - x0).natAbs) :
    bresenhamPixels x0 y0 x1 y1 =
      walk (x1 - x0).natAbs (lineAxis (x1 - x0).natAbs x0 x1) (lineAxis (x1 - x0).natAbs y0 y1) := by
  obtain hzero | hpos := Nat.eq_zero_or_pos (x1 - x0).natAbs
  · obtain rfl : x1 = x0 := by omega
    obtain rfl : y1 = y0 := by omega
    simp [bresenhamPixels, bresenhamFrom_end, walk, lineAxis_zero]
  · have hloop := bresenhamFrom_eq_map hd hpos (stepToward_cases x0 x1) x0 y0 (stepToward y0 y1) _ 0 (Nat.zero_add _)
    rw [add_stepToward, add_stepToward, nearestMultiple_zero, lineError, nearestMultiple_zero] at hloop
    simp only [Nat.cast_zero, mul_zero, add_zero, zero_add, one_mul] at hloop
    simp only [bresenhamPixels, max_eq_left hd, walk, lineAxis, nearestMultiple_major hpos, List.range_eq_range']
    exact hloop

/-- Exchanging the axes covers the lines whose major axis is y. -/
theorem bresenhamPixels_eq_walk {x0 y0 x1 y1 : Int} {n : Nat} (hn : max (x1 - x0).natAbs (y1 - y0).natAbs = n) :
    bresenhamPixels x0 y0 x1 y1 = walk n (lineAxis n x0 x1) (lineAxis n y0 y1) := by
  obtain hd | hd := Nat.le_total (y1 - y0).natAbs (x1 - x0).natAbs
  · rw [max_eq_left hd] at hn
    subst hn
    exact bresenhamPixels_eq_walk_of_le hd
  · rw [max_eq_right hd] at hn
    subst hn
    rw [bresenhamPixels_swap, bresenhamPixels_eq_walk_of_le hd, walk_swap]

/-- Settles O22: the list is the walk whose coordinates are the nearest integers of each axis, and on its major axis the
distance from the first endpoint is the time. -/
theorem bresenhamPixelsWalkEndToEnd : Obligations.BresenhamPixelsWalkEndToEnd := by
  intro x0 y0 x1 y1
  generalize hn : max (x1 - x0).natAbs (y1 - y0).natAbs = n
  have hx : (x1 - x0).natAbs ≤ n := hn ▸ le_max_left ..
  have hy : (y1 - y0).natAbs ≤ n := hn ▸ le_max_right ..
  have hmajor : (x1 - x0).natAbs = n ∨ (y1 - y0).natAbs = n := by omega
  simp only [bresenhamPixels_eq_walk hn, hn, walk_length, walk_head, walk_getLast, walk_getElem, lineAxis_zero,
    lineAxis_last hx, lineAxis_last hy, natAbs_lineAxis, true_and]
  refine ⟨walk_nodup (hmajor.imp (fun h _ => lineAxis_major h) fun h _ => lineAxis_major h),
    fun k _ hpos => ⟨nearestMultiple_bounds hpos _ k, nearestMultiple_bounds hpos _ k⟩,
    fun k hk => ⟨fun heq => ?_, ?_⟩⟩
  · obtain ⟨hp, hq⟩ := Prod.mk.inj heq
    exact hmajor.elim (fun h => lineAxis_succ_ne h (by omega) hp) fun h => lineAxis_succ_ne h (by omega) hq
  · obtain ⟨hx1, hxup, hxdown⟩ := lineAxis_step hx (by omega) k
    obtain ⟨hy1, hyup, hydown⟩ := lineAxis_step hy (by omega) k
    exact ⟨hx1, hy1, hxup, hxdown, hyup, hydown⟩

/-! ### Lines blend each pixel once (rules R118, R122) -/

theorem bresenhamPixels_nodup (x0 y0 x1 y1 : Int) : (bresenhamPixels x0 y0 x1 y1).Nodup := by
  obtain ⟨-, -, -, hnodup, -⟩ := bresenhamPixelsWalkEndToEnd x0 y0 x1 y1
  exact hnodup

theorem paramPixels_nodup (x0 y0 x1 y1 : Int) : (paramPixels x0 y0 x1 y1).Nodup := by
  obtain ⟨-, -, -, hnodup, -⟩ := paramPixelsSampleTheLine x0 y0 x1 y1
  exact hnodup

/-- Settles O24: LINE and LINE.I plot the Bresenham list. -/
theorem lineWritesBresenhamPixels : Obligations.LineWritesBresenhamPixels := fun _ _ _ _ _ _ h hv =>
  ⟨drawsFb_replace h hv rfl, drawsIdx_index h hv rfl⟩

/-- Settles O25: LINE.B blends the Bresenham list, which repeats no pixel. -/
theorem lineBlendsEachPixelOnce : Obligations.LineBlendsEachPixelOnce := fun _ _ _ _ _ _ h hv =>
  drawsFb_blend_nodup h hv rfl (bresenhamPixels_nodup ..)

/-- Settles O26: LINEP and LINEP.I plot the parametric list. -/
theorem linepWritesParamPixels : Obligations.LinepWritesParamPixels := fun _ _ _ _ _ _ h hv =>
  ⟨drawsFb_replace h hv rfl, drawsIdx_index h hv rfl⟩

/-- Settles O27: LINEP.B blends the parametric list, which repeats no pixel. -/
theorem linepBlendsEachPixelOnce : Obligations.LinepBlendsEachPixelOnce := fun _ _ _ _ _ _ h hv =>
  drawsFb_blend_nodup h hv rfl (paramPixels_nodup ..)

end Sys2Proof.Machine

namespace Sys2Proof.Machine

/-! ## The converter (rules R140, R142) -/

/-! ### CONVERT whose checks pass (rule R140) -/

/-- A conversion that passes its checks gathers and counts. -/
theorem exec_convert_completes {s : State} {dst src n : Nat} (herr : convertError dst src n s = none) :
    exec (.convert dst src n) s = .next (countCommand (setMem s (convertMem s.pal dst src n s.mem))) := by
  change execConvert dst src n s = _
  rw [execConvert, herr, finishCommand_none]

/-- Settles O34: the checks pass, and the gather reads no byte that it writes. -/
theorem convertGathersThroughPalette : Obligations.ConvertGathersThroughPalette := by
  intro s dst src n h halign hregions
  have hsep : n = 0 ∨ dst + 4 * n ≤ src ∨ src + n ≤ dst := hregions.imp_right fun ⟨_, _, hapart⟩ => hapart
  have herr : convertError dst src n s = none :=
    convertError_none.2 ⟨halign, hregions.imp_right fun ⟨hsrc, hdst, _⟩ => ⟨hsrc, hdst⟩, hsep⟩
  exact ⟨_, exec_convert_completes herr, rfl, fun i hi => readWord_convertMem h.mem.canonical hsep hi,
    fun a ha => readByte_convertMem_outside ha⟩

/-- Settles O36: a legal configuration gives CONVERT.FRAME aligned regions that are inside PMEM and disjoint, so it gathers
(O34), and pixel (px, py) is word `py * W + px` of the gather. -/
theorem convertFrameNeverRaises : Obligations.ConvertFrameNeverRaises := by
  intro s h hv
  have hc := h.config hv
  have hapart := regionsOverlap_false.1 hc.idx_fb
  have hidx := hc.idx_inside
  have hfb := hc.fb_inside
  rw [idxBytes] at hapart hidx
  rw [fbBytes] at hapart hfb
  obtain ⟨t, hexec, ht, hword, hout⟩ := convertGathersThroughPalette s s.cfgFbBase.toNat s.cfgIdxBase.toNat
    (s.cfgWidth.toNat * s.cfgHeight.toNat) h hc.fb_aligned (by omega)
  refine ⟨t, hexec, ht, fun px py hx hy => ?_, hout⟩
  simp only [idxPixel, byteGridAddr, Nat.add_assoc]
  rw [ht]
  exact hword (py * s.cfgWidth.toNat + px) (gridIndex_lt hx hy)

/-! ### The errors of CONVERT (rules R140, R202) -/

/-- A command that does not draw and whose checks find an error raises it. -/
theorem raises_of_finishCommand {i : Instr} {s : State} {err : Option CommandError} {effect : State → State}
    {e : CommandError} (he : err = some e) (hexec : exec i s = finishCommand (headerWord i) err effect s) :
    Raises i s (errorCode e) := by
  rw [Raises, hexec, he, finishCommand_some]
  rfl

theorem regionsOverlap_iff {b1 n1 b2 n2 : Nat} :
    regionsOverlap b1 n1 b2 n2 = true ↔ 0 < n1 ∧ 0 < n2 ∧ b1 < b2 + n2 ∧ b2 < b1 + n1 := by
  simp [regionsOverlap, and_assoc]

section

variable {s : State} {dst src n : Nat}

theorem raises_of_convertError {e : CommandError} (he : convertError dst src n s = some e) :
    Raises (.convert dst src n) s (errorCode e) :=
  raises_of_finishCommand he (effect := fun s => setMem s (convertMem s.pal dst src n s.mem)) rfl

theorem convertError_align (halign : dst % 4 ≠ 0) : convertError dst src n s = some .align := by
  simp [convertError, wordAligned_iff, halign]

theorem convertError_bounds (halign : dst % 4 = 0) (hn : 0 < n)
    (hout : s.params.pmemSize < src + n ∨ s.params.pmemSize < dst + 4 * n) :
    convertError dst src n s = some .bounds := by
  have hleaves : (!regionInside s.params.pmemSize src n || !regionInside s.params.pmemSize dst (4 * n)) = true := by
    simp only [Bool.or_eq_true, Bool.not_eq_true', ← Bool.not_eq_true, regionInside_iff]
    omega
  rw [convertError, wordAligned_iff.2 halign, hleaves]
  rfl

theorem convertError_overlap (halign : dst % 4 = 0) (hn : 0 < n) (hsrc : src + n ≤ s.params.pmemSize)
    (hdst : dst + 4 * n ≤ s.params.pmemSize) (hlo : src < dst + 4 * n) (hhi : dst < src + n) :
    convertError dst src n s = some .overlap := by
  have hshare : regionsOverlap src n dst (4 * n) = true := regionsOverlap_iff.2 ⟨hn, by omega, hlo, hhi⟩
  rw [convertError, wordAligned_iff.2 halign, regionInside_iff.2 (.inr hsrc), regionInside_iff.2 (.inr hdst), hshare]
  rfl

end

/-- Settles O35: each check is reached when those before it pass. -/
theorem convertErrorsInOrder : Obligations.ConvertErrorsInOrder := fun _ _ _ _ =>
  ⟨fun halign => raises_of_convertError (convertError_align halign),
    fun halign hn hout => raises_of_convertError (convertError_bounds halign hn hout),
    fun halign hn hsrc hdst hlo hhi => raises_of_convertError (convertError_overlap halign hn hsrc hdst hlo hhi)⟩

end Sys2Proof.Machine

namespace Sys2Proof.Machine

/-! ## The upscaler (rules R150, R151, R153, R155) -/

/-! ### UPSCALE whose checks pass (rule R150) -/

/-- An upscale that passes its checks replicates and counts. -/
theorem exec_upscale_completes {s : State} {dst src w h f : Nat} (herr : upscaleError dst src w h f s = none) :
    exec (.upscale dst src w h f) s = .next (countCommand (setMem s (upscaleMem dst src w h f s.mem))) := by
  change execUpscale dst src w h f s = _
  rw [execUpscale, herr, finishCommand_none]

/-- An empty image has an empty source and an empty destination (rule R67). -/
theorem upscale_bytes_empty {w h : Nat} (hz : w * h = 0) (f : Nat) : 4 * w * h = 0 ∧ 4 * w * h * f * f = 0 := by
  simp [Nat.mul_assoc 4 w h, hz]

/-- A nonempty image has a nonempty source and, under a legal factor, a nonempty destination. -/
theorem upscale_bytes_pos {w h f : Nat} (hf : f = 1 ∨ f = 2 ∨ f = 4 ∨ f = 8) (hpos : 0 < w * h) :
    0 < 4 * w * h ∧ 0 < 4 * w * h * f * f := by
  have hsrc : 0 < 4 * w * h := by
    rw [Nat.mul_assoc]
    omega
  have hf0 : 0 < f := by omega
  exact ⟨hsrc, by positivity⟩

/-- Settles O37: the checks pass, and the replication reads no word that it writes. -/
theorem upscaleReplicatesPixels : Obligations.UpscaleReplicatesPixels := by
  intro s dst src w h f hinv hf hdst hsrc hregions
  have hempty := fun hz : w * h = 0 => upscale_bytes_empty hz f
  have hsep : regionsOverlap src (4 * w * h) dst (4 * w * h * f * f) = false := by
    rw [regionsOverlap_false]
    exact hregions.elim (fun hz => .inl (hempty hz).1) fun ⟨_, _, hapart⟩ => .inr (.inr hapart)
  have herr : upscaleError dst src w h f s = none :=
    upscaleError_none.2 ⟨legalFactor_iff.2 hf, wordAligned_iff.2 hdst, wordAligned_iff.2 hsrc,
      regionInside_iff.2 (hregions.imp (fun hz => (hempty hz).1) fun ⟨hin, _⟩ => hin),
      regionInside_iff.2 (hregions.imp (fun hz => (hempty hz).2) fun ⟨_, hin, _⟩ => hin), hsep⟩
  exact ⟨_, exec_upscale_completes herr, rfl,
    fun X Y hX hY => readWord_upscaleMem hinv.mem.canonical hsep hX hY, fun a ha => readByte_upscaleMem_outside ha⟩

/-! ### UPSCALE.FRAME (rule R155) -/

/-- The framebuffer's size as the checks of UPSCALE.FRAME count it. -/
theorem fbBytes_eq (s : State) : fbBytes s = 4 * s.cfgWidth.toNat * s.cfgHeight.toNat := (Nat.mul_assoc ..).symm

/-- The output framebuffer's size as the checks of UPSCALE.FRAME count it. -/
theorem outBytes_eq (s : State) :
    outBytes s = 4 * s.cfgWidth.toNat * s.cfgHeight.toNat * s.cfgFactor.toNat * s.cfgFactor.toNat := by
  rw [outBytes]
  ring

/-- Settles O40: a legal configuration gives UPSCALE.FRAME a legal factor and aligned regions that are inside PMEM and
disjoint, so it replicates (O37). -/
theorem upscaleFrameNeverRaises : Obligations.UpscaleFrameNeverRaises := by
  intro s h hv
  have hc := h.config hv
  have hapart := regionsOverlap_false.1 hc.fb_out
  have hfb := hc.fb_inside
  have hout := hc.out_inside
  rw [outBytes_eq] at hapart hout ⊢
  rw [fbBytes_eq] at hapart hfb
  have hbytes := upscale_bytes_pos (w := s.cfgWidth.toNat) (h := s.cfgHeight.toNat) hc.factor
  obtain ⟨t, hexec, ht, hword, hframe⟩ := upscaleReplicatesPixels s s.cfgOutBase.toNat s.cfgFbBase.toNat
    s.cfgWidth.toNat s.cfgHeight.toNat s.cfgFactor.toNat h hc.factor hc.out_aligned hc.fb_aligned (by omega)
  refine ⟨t, hexec, ht, fun X Y hX hY => ?_, hframe⟩
  rw [outPixel, ht]
  exact hword X Y hX hY

/-! ### The errors of UPSCALE (rules R150, R202) -/

section

variable {s : State} {dst src w h f : Nat}

theorem raises_of_upscaleError {e : CommandError} (he : upscaleError dst src w h f s = some e) :
    Raises (.upscale dst src w h f) s (errorCode e) :=
  raises_of_finishCommand he (effect := fun s => setMem s (upscaleMem dst src w h f s.mem)) rfl

theorem upscaleError_badFactor (hf : ¬(f = 1 ∨ f = 2 ∨ f = 4 ∨ f = 8)) :
    upscaleError dst src w h f s = some .badFactor := by
  simp [upscaleError, legalFactor_iff, hf]

variable (hf : f = 1 ∨ f = 2 ∨ f = 4 ∨ f = 8)
include hf

theorem upscaleError_align (halign : dst % 4 ≠ 0 ∨ src % 4 ≠ 0) : upscaleError dst src w h f s = some .align := by
  have hmis : (!wordAligned dst || !wordAligned src) = true := by
    simpa only [Bool.or_eq_true, Bool.not_eq_true', ← Bool.not_eq_true, wordAligned_iff] using halign
  rw [upscaleError, legalFactor_iff.2 hf, hmis]
  rfl

variable (hdst : dst % 4 = 0) (hsrc : src % 4 = 0) (hpos : 0 < w * h)
include hdst hsrc hpos

theorem upscaleError_bounds
    (hout : s.params.pmemSize < src + 4 * w * h ∨ s.params.pmemSize < dst + 4 * w * h * f * f) :
    upscaleError dst src w h f s = some .bounds := by
  obtain ⟨hs, hd⟩ := upscale_bytes_pos hf hpos
  have hleaves : (!regionInside s.params.pmemSize src (4 * w * h) ||
      !regionInside s.params.pmemSize dst (4 * w * h * f * f)) = true := by
    simp only [Bool.or_eq_true, Bool.not_eq_true', ← Bool.not_eq_true, regionInside_iff]
    omega
  rw [upscaleError, legalFactor_iff.2 hf, wordAligned_iff.2 hdst, wordAligned_iff.2 hsrc, hleaves]
  rfl

theorem upscaleError_overlap (hsrcIn : src + 4 * w * h ≤ s.params.pmemSize)
    (hdstIn : dst + 4 * w * h * f * f ≤ s.params.pmemSize) (hlo : src < dst + 4 * w * h * f * f)
    (hhi : dst < src + 4 * w * h) : upscaleError dst src w h f s = some .overlap := by
  obtain ⟨hs, hd⟩ := upscale_bytes_pos hf hpos
  rw [upscaleError, legalFactor_iff.2 hf, wordAligned_iff.2 hdst, wordAligned_iff.2 hsrc,
    regionInside_iff.2 (.inr hsrcIn), regionInside_iff.2 (.inr hdstIn), regionsOverlap_iff.2 ⟨hs, hd, hlo, hhi⟩]
  rfl

end

/-- Settles O38: each check is reached when those before it pass. -/
theorem upscaleErrorsInOrder : Obligations.UpscaleErrorsInOrder := fun _ _ _ _ _ _ =>
  ⟨fun hf => raises_of_upscaleError (upscaleError_badFactor hf),
    fun hf halign => raises_of_upscaleError (upscaleError_align hf halign),
    fun hf hdst hsrc hpos hout => raises_of_upscaleError (upscaleError_bounds hf hdst hsrc hpos hout),
    fun hf hdst hsrc hpos hsrcIn hdstIn hlo hhi =>
      raises_of_upscaleError (upscaleError_overlap hf hdst hsrc hpos hsrcIn hdstIn hlo hhi)⟩

/-! ### Recursive doubling (rules R151, R153) -/

/-- The image `f` times `w` wide at `dst` of `m'` is the `w` by `h` image at `src` of `m`, magnified `f` times. -/
def Magnifies (f src w h dst : Nat) (m m' : Memory) : Prop :=
  ∀ X Y, X < w * f → Y < h * f →
    readWord m' (wordGridAddr dst (w * f) X Y) = readWord m (wordGridAddr src w (X / f) (Y / f))

/-- Magnifying a magnified image multiplies the factors (rule R151). -/
theorem Magnifies.trans {f g src w h d e : Nat} {m m' m'' : Memory} (h₁ : Magnifies f src w h d m m')
    (h₂ : Magnifies g d (w * f) (h * f) e m' m'') : Magnifies (f * g) src w h e m m'' := by
  intro X Y hX hY
  rw [← Nat.mul_assoc] at hX hY ⊢
  rw [h₂ X Y hX hY, h₁ (X / g) (Y / g) (Nat.div_lt_of_lt_mul (Nat.mul_comm g _ ▸ hX))
    (Nat.div_lt_of_lt_mul (Nat.mul_comm g _ ▸ hY)), Nat.div_div_eq_div_mul, Nat.div_div_eq_div_mul, Nat.mul_comm f g]

/-- Two images of one source under one factor hold the same words. -/
theorem Magnifies.words_eq {f src w h d e : Nat} {m m₁ m₂ : Memory} (h₁ : Magnifies f src w h d m m₁)
    (h₂ : Magnifies f src w h e m m₂) {k : Nat} (hk : k < w * f * (h * f)) :
    readWord m₁ (d + 4 * k) = readWord m₂ (e + 4 * k) := by
  have hcol : k % (w * f) < w * f := Nat.mod_lt _ (Nat.pos_of_mul_pos_right (Nat.zero_lt_of_lt hk))
  have hrow : k / (w * f) < h * f := Nat.div_lt_of_lt_mul hk
  have hword := (h₁ _ _ hcol hrow).trans (h₂ _ _ hcol hrow).symm
  rwa [wordGridAddr, wordGridAddr, Nat.div_add_mod'] at hword

/-- An UPSCALE over aligned regions of `a` and `b` bytes inside PMEM, which share no byte, completes in a state that another
one can follow. -/
theorem exec_upscale_magnifies {s : State} {dst src w h f a b : Nat} (hinv : Inv s)
    (hf : f = 1 ∨ f = 2 ∨ f = 4 ∨ f = 8) (hdst : dst % 4 = 0) (hsrc : src % 4 = 0) (ha : 4 * w * h = a)
    (hb : 4 * w * h * f * f = b) (hsrcIn : src + a ≤ s.params.pmemSize) (hdstIn : dst + b ≤ s.params.pmemSize)
    (hapart : src + a ≤ dst ∨ dst + b ≤ src) :
    ∃ t, exec (.upscale dst src w h f) s = .next t ∧ Inv t ∧ t.params = s.params ∧
      Magnifies f src w h dst s.mem t.mem := by
  subst ha hb
  obtain ⟨t, hexec, ht, hword, -⟩ :=
    upscaleReplicatesPixels s dst src w h f hinv hf hdst hsrc (.inr ⟨hsrcIn, hdstIn, hapart.symm⟩)
  exact ⟨t, hexec, nextInv_exec hinv _ t hexec, by rw [ht], hword⟩

/-- Settles O39: each command magnifies, and magnifications compose (`Magnifies.trans`). -/
theorem upscaleIsRecursiveDoubling : Obligations.UpscaleIsRecursiveDoubling := by
  intro s src d1 d2 d3 d4 d8 w h hinv hsrc h1 h2 h3 h4 h8 hsrcIn hin1 hin2 hin3 hin4 hin8 hap1 hap2 hap3 hap4 hap8
  obtain ⟨a, hexa, hinva, hpa, hma⟩ := exec_upscale_magnifies (w := w) (h := h) (f := 2) hinv (by decide) h1 hsrc
    rfl (by ring) hsrcIn hin1 hap1
  rw [← hpa] at hin1 hin2
  obtain ⟨b, hexb, hinvb, hpb, hmb⟩ := exec_upscale_magnifies (w := w * 2) (h := h * 2) (f := 2) hinva (by decide)
    h2 h1 (by ring) (by ring) hin1 hin2 hap2
  rw [← hpa, ← hpb] at hin3
  rw [← hpb] at hin2
  obtain ⟨c, hexc, -, -, hmc⟩ := exec_upscale_magnifies (w := w * 4) (h := h * 4) (f := 2) hinvb (by decide)
    h3 h2 (by ring) (by ring) hin2 hin3 hap3
  obtain ⟨u, hexu, -, -, hmu⟩ := exec_upscale_magnifies (w := w) (h := h) (f := 4) hinv (by decide) h4 hsrc
    rfl (by ring) hsrcIn hin4 hap4
  obtain ⟨v, hexv, -, -, hmv⟩ := exec_upscale_magnifies (w := w) (h := h) (f := 8) hinv (by decide) h8 hsrc
    rfl (by ring) hsrcIn hin8 hap8
  have hm4 : Magnifies 4 src w h d2 s.mem b.mem := hma.trans hmb
  have hm8 : Magnifies 8 src w h d3 s.mem c.mem := hm4.trans hmc
  rw [Nat.mul_comm 2 w, Nat.mul_comm 2 h, Nat.mul_comm 4 w, Nat.mul_comm 4 h]
  exact ⟨a, b, c, u, v, hexa, hexb, hexc, hexu, hexv,
    fun k hk => hm4.words_eq hmu (hk.trans_eq (by ring)), fun k hk => hm8.words_eq hmv (hk.trans_eq (by ring))⟩

end Sys2Proof.Machine

namespace Sys2Proof.Machine

/-! ## The region errors of a sprite (rules R160, R166, R202) -/

section

variable {s : State} {sb sw sh : Nat}

theorem spriteError_align (halign : sb % 4 ≠ 0) : spriteError sb sw sh s = some .align := by
  simp [spriteError, wordAligned_iff, halign]

/-- A nonempty sprite has at least one byte. -/
theorem sprite_bytes_pos (hpos : 0 < sw * sh) : 0 < 4 * sw * sh := by
  rw [Nat.mul_assoc]
  omega

theorem spriteError_bounds (halign : sb % 4 = 0) (hpos : 0 < sw * sh) (hout : s.params.pmemSize < sb + 4 * sw * sh) :
    spriteError sb sw sh s = some .bounds := by
  have hbytes := sprite_bytes_pos hpos
  have hleaves : regionInside s.params.pmemSize sb (4 * sw * sh) = false := by
    rw [← Bool.not_eq_true, regionInside_iff]
    omega
  rw [spriteError, wordAligned_iff.2 halign, hleaves]
  rfl

theorem spriteError_overlap (halign : sb % 4 = 0) (hpos : 0 < sw * sh) (hin : sb + 4 * sw * sh ≤ s.params.pmemSize)
    (hfb : 0 < fbBytes s) (hlo : sb < s.cfgFbBase.toNat + fbBytes s) (hhi : s.cfgFbBase.toNat < sb + 4 * sw * sh) :
    spriteError sb sw sh s = some .overlap := by
  have hshare := regionsOverlap_iff.2 ⟨sprite_bytes_pos hpos, hfb, hlo, hhi⟩
  rw [fbBytes_eq] at hshare
  rw [spriteError, wordAligned_iff.2 halign, regionInside_iff.2 (.inr hin), hshare]
  rfl

/-- With a configuration the checks of BLIT are those of the sprite region. -/
theorem blitError_configured (hv : s.cfgValid = true) : blitError sb sw sh s = spriteError sb sw sh s := by
  simp [blitError, hv]

/-- With a configuration and no reserved operand bit the checks of LIGHT are those of the sprite region. -/
theorem lightError_configured {ie am : Word} (hv : s.cfgValid = true) (hie : enableReserved ie = 0)
    (ham : ambientReserved am = 0) : lightError sb sw sh ie am s = spriteError sb sw sh s := by
  have hres : ¬(enableReserved ie ≠ 0 ∨ ambientReserved am ≠ 0) := by simp [hie, ham]
  simp only [lightError, hv, Bool.not_true, Bool.false_eq_true, if_false]
  exact if_neg hres

end

/-- Settles O44: past the configuration and the reserved bits, each of the four commands raises what `spriteError` finds, and
each check of the region is reached when those before it pass. -/
theorem spriteErrorsInOrder : Obligations.SpriteErrorsInOrder := by
  intro s i x y sb sw sh lx ly color range ie am hv hie ham hi
  have raises {e : CommandError} (he : spriteError sb sw sh s = some e) : Raises i s (errorCode e) := by
    have hblit := (blitError_configured hv).trans he
    have hlight := (lightError_configured hv hie ham).trans he
    obtain rfl | rfl | rfl | rfl := hi
    · exact raises_of_drawCommand hblit rfl
    · exact raises_of_drawCommand hblit rfl
    · exact raises_of_drawCommand hlight rfl
    · exact raises_of_drawCommand hlight rfl
  exact ⟨fun halign => raises (spriteError_align halign),
    fun halign hpos hout => raises (spriteError_bounds halign hpos hout),
    fun halign hpos hin hfb hlo hhi => raises (spriteError_overlap halign hpos hin hfb hlo hhi)⟩

/-! ## Shade (rules R166, R167) -/

/-- The numerator of the exact value of Shade within the light's range (rule R166). -/
def shadeNumerator (lp : LightParams) (d2 : Int) (sc lc : Nat) : Int :=
  sc * (lp.ambient * 255 * (lp.range * lp.range) + (lp.range * lp.range - d2) * lp.intensity * lc)

/-- The denominator of the exact value of Shade within the light's range (rule R166). -/
def shadeDenominator (lp : LightParams) : Int := 256 * 255 * (lp.range * lp.range)

section

variable {lp : LightParams} {d2 : Int} {sc lc : Nat}

/-- Without the light, or out of its range, Shade has the ambient term only. -/
theorem shadeChannel_ambient (h : lp.enable = false ∨ (lp.range * lp.range : Int) ≤ d2) :
    shadeChannel lp d2 sc lc = min 255 ((sc * lp.ambient : Int) / 256) := if_pos h

/-- Within the light's range Shade is the saturated quotient of rule R166. -/
theorem shadeChannel_lit (he : lp.enable = true) (hd : d2 < lp.range * lp.range) :
    shadeChannel lp d2 sc lc = min 255 (shadeNumerator lp d2 sc lc / shadeDenominator lp) :=
  if_neg (by simp [he, hd])

/-- Either case of Shade. -/
theorem shadeChannel_cases (lp : LightParams) (d2 : Int) :
    (lp.enable = false ∨ (lp.range * lp.range : Int) ≤ d2) ∨ (lp.enable = true ∧ d2 < lp.range * lp.range) := by
  cases lp.enable
  · exact .inl (.inl rfl)
  · exact (le_or_gt _ d2).imp .inr fun hd => ⟨rfl, hd⟩

theorem shadeDenominator_pos (h0 : 0 ≤ d2) (hd : d2 < lp.range * lp.range) : 0 < shadeDenominator lp := by
  rw [shadeDenominator]
  omega

theorem shadeNumerator_nonneg (hd : d2 < lp.range * lp.range) : 0 ≤ shadeNumerator lp d2 sc lc := by
  have hrest : 0 ≤ (lp.range * lp.range : Int) - d2 := by omega
  rw [shadeNumerator]
  positivity

theorem shadeChannel_bounds (lp : LightParams) (sc lc : Nat) (h0 : 0 ≤ d2) :
    0 ≤ shadeChannel lp d2 sc lc ∧ shadeChannel lp d2 sc lc ≤ 255 := by
  rcases shadeChannel_cases lp d2 with h | ⟨he, hd⟩
  · rw [shadeChannel_ambient h]
    exact ⟨le_min (by decide) (by positivity), min_le_left ..⟩
  · rw [shadeChannel_lit he hd]
    exact ⟨le_min (by decide) (Int.ediv_nonneg (shadeNumerator_nonneg hd) (shadeDenominator_pos h0 hd).le),
      min_le_left ..⟩

/-- A floored quotient saturated at 255 is 255 when the exact value is 255 or more, and its floor otherwise. -/
theorem saturatedFloor {num den q : Int} (hden : 0 < den) (hq : q = min 255 (num / den)) :
    (q = 255 ∧ 255 * den ≤ num) ∨ (den * q ≤ num ∧ num < den * (q + 1)) := by
  rcases le_total 255 (num / den) with hsat | hfloor
  · exact .inl ⟨hq.trans (min_eq_left hsat), (Int.le_ediv_iff_mul_le hden).1 hsat⟩
  · obtain rfl : q = num / den := hq.trans (min_eq_right hfloor)
    refine .inr ⟨Int.mul_ediv_self_le hden.ne', ?_⟩
    rw [mul_add, mul_one]
    exact Int.lt_mul_ediv_self_add hden

/-- A light of the same range that is enabled alike and has no smaller ambient term and no smaller intensity gives no smaller
Shade. -/
theorem shadeChannel_mono {lp' : LightParams} (henable : lp'.enable = lp.enable) (hrange : lp'.range = lp.range)
    (hambient : lp.ambient ≤ lp'.ambient) (hintensity : lp.intensity ≤ lp'.intensity) (h0 : 0 ≤ d2) :
    shadeChannel lp d2 sc lc ≤ shadeChannel lp' d2 sc lc := by
  rcases shadeChannel_cases lp d2 with h | ⟨he, hd⟩
  · rw [shadeChannel_ambient h, shadeChannel_ambient (by rwa [henable, hrange])]
    exact min_le_min_left _ (Int.ediv_le_ediv (by decide) (by gcongr))
  · have hnum : shadeNumerator lp d2 sc lc ≤ shadeNumerator lp' d2 sc lc := by
      have hrest : 0 ≤ (lp.range * lp.range : Int) - d2 := by omega
      rw [shadeNumerator, shadeNumerator, hrange]
      gcongr
    have hden : shadeDenominator lp' = shadeDenominator lp := by rw [shadeDenominator, shadeDenominator, hrange]
    rw [shadeChannel_lit he hd, shadeChannel_lit (henable.trans he) (by rwa [hrange]), hden]
    exact min_le_min_left _ (Int.ediv_le_ediv (shadeDenominator_pos h0 hd) hnum)

end

/-- Settles O43: within the range the quotient is that of `shadeNumerator` by `shadeDenominator`, which is positive there. -/
theorem shadeIsExactAndMonotone : Obligations.ShadeIsExactAndMonotone := fun lp _ sc lc _ _ h0 =>
  ⟨shadeChannel_bounds lp sc lc h0, shadeChannel_ambient,
    fun he hd => saturatedFloor (shadeDenominator_pos h0 hd) (shadeChannel_lit he hd),
    fun _ ha => shadeChannel_mono rfl rfl ha le_rfl h0, fun _ hk => shadeChannel_mono rfl rfl le_rfl hk h0⟩

end Sys2Proof.Machine

namespace Sys2Proof.Machine

/-! ## The control commands (rules R180, R182, R186) -/

/-! ### NOP and SIGNAL, which have no check (rules R180, R186) -/

theorem exec_nop (s : State) : exec .nop s = .next (countCommand s) := rfl

theorem exec_signal (v : Word) (s : State) : exec (.signal v) s = .next (countCommand (setSignal v s)) := rfl

theorem exec_signalIrq (v : Word) (s : State) :
    exec (.signalIrq v) s = .next (countCommand (setIrq irqSigBit (setSignal v s))) := rfl

/-- Settles O45: NOP makes no write and is counted. -/
theorem nopOnlyCounts : Obligations.NopOnlyCounts := exec_nop

/-- Settles O48: the writes of `exec_signal` and `exec_signalIrq`, counted. -/
theorem signalPublishesItsValue : Obligations.SignalPublishesItsValue := fun s v =>
  ⟨exec_signal v s, exec_signalIrq v s⟩

/-! ### The checks of INIT as arithmetic, in their order (rules R67, R182) -/

/-- Regions of at least one byte share none when one ends before the other begins. -/
theorem regionsOverlap_false_of_pos {b1 n1 b2 n2 : Nat} (h1 : 0 < n1) (h2 : 0 < n2) :
    regionsOverlap b1 n1 b2 n2 = false ↔ b1 + n1 ≤ b2 ∨ b2 + n2 ≤ b1 := by
  rw [regionsOverlap_false]
  omega

theorem regionInside_iff_of_pos {size b n : Nat} (h : 0 < n) : regionInside size b n = true ↔ b + n ≤ size := by
  rw [regionInside_iff]
  omega

section

variable {s : State} {f w h bi bf bo : Nat}

/-- Past the checks of the factor and of the smallest size no buffer is empty, because MIN_DIM is at least 1 (rule R6). -/
theorem init_bytes_pos (hp : s.params.Legal) (hf : f = 1 ∨ f = 2 ∨ f = 4 ∨ f = 8)
    (hmin : s.params.minDim ≤ w ∧ s.params.minDim ≤ h) : 0 < w * h ∧ 0 < 4 * w * h ∧ 0 < 4 * w * h * f * f := by
  have hone := hp.minDim_low
  have hidx : 0 < w * h := Nat.mul_pos (by omega) (by omega)
  exact ⟨hidx, upscale_bytes_pos hf hidx⟩

/-- The first check of rule R182 that fails. An empty region, which `regionInside` and `regionsOverlap` accept wherever it
lies, does not reach them. -/
theorem initError_eq (hp : s.params.Legal) : initError f w h bi bf bo s =
    if ¬(f = 1 ∨ f = 2 ∨ f = 4 ∨ f = 8) then some .badFactor
    else if ¬(s.params.minDim ≤ w ∧ s.params.minDim ≤ h) then some .dimTooSmall
    else if ¬(w % 4 = 0 ∧ h % 4 = 0) then some .dimNotDiv4
    else if ¬(bi % 4 = 0 ∧ bf % 4 = 0 ∧ bo % 4 = 0) then some .align
    else if ¬(bi + w * h ≤ s.params.pmemSize ∧ bf + 4 * w * h ≤ s.params.pmemSize ∧
      bo + 4 * w * h * f * f ≤ s.params.pmemSize) then some .noMem
    else if ¬((bi + w * h ≤ bf ∨ bf + 4 * w * h ≤ bi) ∧ (bi + w * h ≤ bo ∨ bo + 4 * w * h * f * f ≤ bi) ∧
      (bf + 4 * w * h ≤ bo ∨ bo + 4 * w * h * f * f ≤ bf)) then some .overlap
    else none := by
  rw [initError]
  refine ite_congr (by simp only [Bool.not_eq_true', ← Bool.not_eq_true, legalFactor_iff]) (fun _ => rfl) fun hf => ?_
  refine ite_congr (by simp [imp_iff_not_or]) (fun _ => rfl) fun hmin => ?_
  refine ite_congr (by simp [imp_iff_not_or]) (fun _ => rfl) fun _ => ?_
  refine ite_congr (by simp [← wordAligned_iff, imp_iff_not_or, or_assoc]) (fun _ => rfl) fun _ => ?_
  obtain ⟨hidx, hfb, hout⟩ := init_bytes_pos hp (not_not.1 hf) (not_not.1 hmin)
  refine ite_congr ?_ (fun _ => rfl) fun _ => ite_congr ?_ (fun _ => rfl) fun _ => rfl
  · simp [← regionInside_iff_of_pos, hidx, hfb, hout, imp_iff_not_or, or_assoc]
  · simp [← regionsOverlap_false_of_pos, hidx, hfb, hout, buffersOverlap, imp_iff_not_or, or_assoc]

/-- An INIT whose checks pass configures and counts. -/
theorem exec_init_completes (herr : initError f w h bi bf bo s = none) :
    exec (.init f w h bi bf bo) s = .next (countCommand (configure f w h bi bf bo s)) := by
  change execInit f w h bi bf bo s = _
  rw [execInit, herr, if_pos rfl, finishCommand_none]

/-- An INIT with a failing check clears CFG_VALID and raises the error. -/
theorem exec_init_fails {e : CommandError} (herr : initError f w h bi bf bo s = some e) :
    exec (.init f w h bi bf bo) s = .next (raiseError e 0x00000001#32 (invalidateConfig s)) := by
  change execInit f w h bi bf bo s = _
  rw [execInit, herr, if_neg nofun, finishCommand_some]
  rfl

end

/-- Settles O46: no check of `initError_eq` fails, and by them every operand is a 32-bit number and what `configure` leaves is
a legal configuration. -/
theorem initConfiguresAndEmptiesPalette : Obligations.InitConfiguresAndEmptiesPalette := by
  intro s f w h bi bf bo hp hf hw hh hw4 hh4 hbi hbf hbo hiIn hbIn hoIn hib hio hbo'
  have herr : initError f w h bi bf bo s = none := by simp [initError_eq hp, *]
  obtain ⟨hf32, hw32, hh32, hbi32, hbf32, hbo32⟩ := initError_none_lt hp herr
  exact ⟨_, exec_init_completes herr, rfl, Nat.mod_eq_of_lt hf32, Nat.mod_eq_of_lt hw32, Nat.mod_eq_of_lt hh32,
    Nat.mod_eq_of_lt hbi32, Nat.mod_eq_of_lt hbf32, Nat.mod_eq_of_lt hbo32,
    (configOk_configure hp herr).congr rfl rfl rfl rfl rfl rfl rfl⟩

/-- Settles O47: `initError_eq` reaches each check when those before it pass. -/
theorem initFailureReportsFirstError : Obligations.InitFailureReportsFirstError := by
  intro s f w h bi bf bo hp
  refine ⟨fun hf => exec_init_fails (e := .badFactor) ?_, fun hf hmin => exec_init_fails (e := .dimTooSmall) ?_,
    fun hf hmin hdiv => exec_init_fails (e := .dimNotDiv4) ?_,
    fun hf hmin hdiv halign => exec_init_fails (e := .align) ?_,
    fun hf hmin hdiv halign hmem => exec_init_fails (e := .noMem) ?_,
    fun hf hmin hdiv halign hmem hapart => exec_init_fails (e := .overlap) ?_⟩
  all_goals simp [initError_eq hp, *]

end Sys2Proof.Machine

namespace Sys2Proof.Machine

/-! ## The events of one command (rules R211, R212) -/

/-- The writes of a command set no event but SIG, by SIGNAL.IRQ. -/
theorem CommandWrites.irqStatus {s u : State} {i : Instr} (h : CommandWrites s i u) :
    u.irqStatus = s.irqStatus ∨ u.irqStatus = s.irqStatus ||| irqSigBit ∧ ∃ v, i = .signalIrq v := by
  cases h with
  | nothing | memory | result | append | signal | configure => exact .inl rfl
  | signalIrq v hi => exact .inr ⟨rfl, v, hi⟩

/-- Settles O51: a command that completes sets what its writes set, and one that raises an error sets ERR and halts. -/
theorem oneCommandSetsAtMostOneEvent : Obligations.OneCommandSetsAtMostOneEvent := by
  intro i s t ht
  obtain ⟨u, hw, rfl⟩ | ⟨e, -, rfl⟩ | ⟨e, -, rfl⟩ := exec_next ht
  · obtain hkept | hsig := hw.irqStatus
    · exact .inl hkept
    · exact .inr (.inl hsig)
  · exact .inr (.inr ⟨rfl, rfl⟩)
  · exact .inr (.inr ⟨rfl, rfl⟩)

end Sys2Proof.Machine

namespace Sys2Proof.Machine

/-! ## Reset (rules R230, R231) -/

/-- The reset table, row by row: all that is kept is the parameters, pixel memory and the ports' own fields (note 8). -/
theorem resetBlock_eq (s : State) :
    resetBlock s =
      { params := s.params, fifo := [], halted := false, cfgValid := false, errCode := 0, errHeader := 0
        irqStatus := 0, irqEnable := 0, result := 0, signal := 0, cmdCount := 0, pal := []
        cfgFactor := 0, cfgWidth := 0, cfgHeight := 0, cfgIdxBase := 0, cfgFbBase := 0, cfgOutBase := 0
        mem := s.mem, port := s.port, portResponse := s.portResponse } := rfl

/-- The engine has no enabled step without a packet in the FIFO (rules R24, R81). -/
theorem busy_of_fifo_nil {s : State} (h : s.fifo = []) : busy s = false := by simp [busy, h, packetReady]

/-- Settles O53: both resets are `resetBlock`, which leaves no event enabled for IRQ and no packet for BUSY. -/
theorem resetLeavesTheTable : Obligations.ResetLeavesTheTable := by
  intro s ev v
  refine ⟨fun hp => ?_, fun hp h0 => ?_, irqLine_of_none_enabled rfl, busy_of_fifo_nil rfl⟩
  · exact (agentStep_resetInput hp).trans (congrArg _ (resetBlock_eq _))
  · rw [step_writeCtrl hp, writeCtrl_reset _ h0, resetBlock_eq]
    rfl

end Sys2Proof.Machine
